-- ==== Sys2Proof/Word.lean ====
section
/-! DEFINITION. The word types of the block: every value of the spec is an unsigned integer of a stated
width (R12). A byte order is decided once, in `Machine/Operands.lean` (`wordOfBytes`). -/

namespace Sys2Proof

/-- A `u8` (R12): a channel of a pixel, a byte of FB, of the key, of the header. -/
abbrev Byte := BitVec 8

/-- A `u16` (R12): a PackedPixel, RGB565 (R16), and the geometry registers (R28, R29). -/
abbrev Packed := BitVec 16

/-- A `u24` (R12): one RGB888 entry of SRC, R in bits [23:16], G in [15:8], B in [7:0] (R36). -/
abbrev Rgb := BitVec 24

/-- A `u32` (R12, R44): a register, a host address, the data of a host transaction, a command word. -/
abbrev Word := BitVec 32

end Sys2Proof
end

