-- ==== Sys2Proof/Config.lean ====
section
/-! DEFINITION. The parameters of the block (R8) as a record, and the values the spec leaves free: opaque
constants, which nothing in Lean can evaluate. The derived parameters (R9), the legal domain (R10) and the
Push3 instance stand in `Machine/Params.lean`. -/

namespace Sys2Proof

/-- The implementation parameters of R8, fixed when the block is elaborated; no register changes them. -/
structure Config where
  /-- `W`, pixels per scanline. -/
  width : Nat
  /-- `H`, scanlines per frame. -/
  height : Nat
  /-- `PAD`, zero bytes after each scanline. -/
  pad : Nat
  /-- `KEY[0..3]` in order; exactly 4 bytes in a legal configuration (R10). -/
  key : List Byte
  /-- `CHUNK_MAX`, the most payload bytes of one transport write. -/
  chunkMax : Nat
  /-- `HEADER[0..15]` in order; exactly 16 bytes in a legal configuration (R10). -/
  header : List Byte
  /-- `EP_OUT`, the bulk-out endpoint; a value in 0..255 (R10). -/
  epOut : Byte
  deriving DecidableEq, Repr

/-- FREE VALUE. The Push3 instance's `EP_OUT`, the open parameter of R8 (D23, N3, U10; log entry 2). -/
opaque Config.pushEndpoint : Byte

/-- FREE VALUE. `draw_8()` (R14, R56, R111) as a function of the model's draw counter (log entry 3). -/
opaque Config.draw8 : Nat → Byte

/-- FREE VALUE. `draw_24()` (R52, R56) as a function of the model's draw counter (log entry 3). -/
opaque Config.draw24 : Nat → Rgb

/-- FREE VALUE. `draw_32()` (R52, R55) as a function of the model's draw counter (log entry 3). -/
opaque Config.draw32 : Nat → Word

/-- FREE VALUE. The draw behind the length of an abandoned write's delivered part (R139, U7), before it is
brought into its bound (log entry 4). -/
opaque Config.drawLength : Nat → Nat

/-- FREE VALUE. What the 32-bit register CFG_CHUNK_MAX reads when CHUNK_MAX has no 32-bit value: R10 puts no
upper bound on CHUNK_MAX and R32 states no result there (log entry 5). -/
opaque Config.wideChunkMax : Nat → Word

end Sys2Proof
end

