-- ==== Sys2Proof/Syntax.lean ====
section
/-! DEFINITION. The four commands of the block (R71), the Transport's answers (R64), and the statements of a
host program (R76, R77). -/

namespace Sys2Proof

/-- A decoded command, one constructor per row of the opcode table (R71). PACK's operands are the three
channel fields, each a `u8` (R70); BUILD, XOR and SEND have no operands. -/
inductive Instr where
  /-- `PACK r, g, b`: quantize and pack one pixel (R80). -/
  | pack (r g b : Byte)
  /-- `BUILD`: build the framebuffer from SRC (R87). -/
  | build
  /-- `XOR`: obfuscate FB in place (R99). -/
  | xor
  /-- `SEND`: start a frame (R108). -/
  | send
  deriving DecidableEq, Repr

/-- The Transport's answer to a transport write (R64). The error kind inside an `Err` is not recorded (U17). -/
inductive Answer where
  | ok
  | err
  deriving DecidableEq, Repr

/-- One statement of a host program, in the syntax of R76 and R77. Numbers are as written, before any check
that they fit their field. -/
inductive HostStmt where
  /-- `PACK r, g, b` used as a host statement. -/
  | pack (r g b : Nat)
  /-- `BUILD` used as a host statement. -/
  | build
  /-- `XOR` used as a host statement. -/
  | xor
  /-- `SEND` used as a host statement. -/
  | send
  /-- `WR off, val`: `MemWrite(off, 4, val)`. -/
  | wr (off val : Nat)
  /-- `RD off -> name`: `MemRead(off, 4)`. -/
  | rd (off : Nat)
  /-- `RESET`: the reset input fires. -/
  | reset
  /-- `TX Ok` or `TX Err`: the answer to the outstanding transport write. -/
  | tx (answer : Answer)
  /-- `ENG`: the Engine step that takes no answer. -/
  | eng
  /-- `SETGEOM w, h`. -/
  | setGeom (w h : Nat)
  /-- `PIX x, y, r, g, b`. -/
  | pix (x y r g b : Nat)
  /-- `WAITIDLE`: the Host's loop that reads STATUS until BUSY is clear. -/
  | waitIdle
  /-- `CHECKERR code`: a read of ERROR, whose CODE field the program expects to be `code`. -/
  | checkErr (code : Nat)
  deriving DecidableEq, Repr

end Sys2Proof
end

