-- ==== Sys2Proof/WellFormed.lean ====
section
/-! DEFINITION. Which statements of a host program assemble (R76, R77). A command itself needs no check: its
operands are `u8` fields that hold every value of 0..255 (R70), so every term of `Instr` is well formed. -/

namespace Sys2Proof

/-- A channel value assembles when it is in 0..255 (R76: "A channel value outside 0..255 does not assemble"). -/
def channelFits (v : Nat) : Bool := decide (v ≤ 255)

/-- A host offset or datum is a 32-bit word (R44, R76). -/
def wordFits (v : Nat) : Bool := decide (v < 2 ^ 32)

/-- The host offset of pixel (x, y) in the SRC window, as `PIX` computes it (R77). -/
def pixelOffset (c : Config) (x y : Nat) : Nat := 0x00100000 + 4 * (y * c.width + x)

/-- A command is well formed when its operand fields hold `u8` values; R70 gives every such value a meaning,
so every command is. -/
def Instr.wellFormed : Instr → Bool
  | .pack r g b => channelFits r.toNat && channelFits g.toNat && channelFits b.toNat
  | .build => true
  | .xor => true
  | .send => true

/-- Whether a host statement assembles on configuration `c`: channels in 0..255 (R76) and words of 32 bits
(R44; log entry 18). `CHECKERR` may expect any number: one that CODE cannot hold is never read. -/
def HostStmt.wellFormed (c : Config) : HostStmt → Bool
  | .pack r g b => channelFits r && channelFits g && channelFits b
  | .build => true
  | .xor => true
  | .send => true
  | .wr off val => wordFits off && wordFits val
  | .rd off => wordFits off
  | .reset => true
  | .tx _ => true
  | .eng => true
  | .setGeom w h => wordFits w && wordFits h
  | .pix x y r g b => wordFits (pixelOffset c x y) && (channelFits r && channelFits g && channelFits b)
  | .waitIdle => true
  | .checkErr _ => true

end Sys2Proof
end

