-- ==== Sys2Proof/Decode.lean ====
section
/-! DEFINITION. The command decoder (R72, total on every 32-bit word, rejecting by name, R73), the encoder
(R76), and the host's view of the opcode table. Decode reads only the word and no state (R72). -/

namespace Sys2Proof

/-- Why a command word is ILLEGAL (R73). Both reasons are reported alike, as ILLEGAL_COMMAND. -/
inductive DecodeError where
  /-- OPC is 0x00 or in 0x05..0xFF (R71, R73). -/
  | unassignedOpcode (opc : Byte)
  /-- OPC is in 0x02..0x04 and `cmd[23:0]` is not zero (R70, R73). -/
  | reservedOperandBits (opc : Byte)
  deriving DecidableEq, Repr

/-- OPC, `cmd[31:24]` (R69). -/
def opcodeField (cmd : Word) : Byte := cmd.extractLsb' 24 8

/-- Field A, `cmd[23:16]`: PACK's red channel (R69, R70). -/
def fieldA (cmd : Word) : Byte := cmd.extractLsb' 16 8

/-- Field B, `cmd[15:8]`: PACK's green channel (R69, R70). -/
def fieldB (cmd : Word) : Byte := cmd.extractLsb' 8 8

/-- Field C, `cmd[7:0]`: PACK's blue channel (R69, R70). -/
def fieldC (cmd : Word) : Byte := cmd.extractLsb' 0 8

/-- The name under which a word that no row matches is rejected (R73). -/
def rejectWord (cmd : Word) : DecodeError :=
  if 0x02#8 ≤ opcodeField cmd ∧ opcodeField cmd ≤ 0x04#8 then .reservedOperandBits (opcodeField cmd)
  else .unassignedOpcode (opcodeField cmd)

/-- R72: the command a word written to CMD stands for, or the reason it is ILLEGAL. -/
def decode (cmd : Word) : Except DecodeError Instr :=
  if cmd &&& 0xFF000000#32 = 0x01000000#32 then .ok (.pack (fieldA cmd) (fieldB cmd) (fieldC cmd))
  else if cmd = 0x02000000#32 then .ok .build
  else if cmd = 0x03000000#32 then .ok .xor
  else if cmd = 0x04000000#32 then .ok .send
  else .error (rejectWord cmd)

/-- R76: the word a command assembles to. Every command is one 32-bit word (R75). -/
def encode : Instr → Word
  | .pack r g b =>
    0x01#32 <<< 24 ||| r.setWidth 32 <<< 16 ||| g.setWidth 32 <<< 8 ||| b.setWidth 32
  | .build => 0x02000000#32
  | .xor => 0x03000000#32
  | .send => 0x04000000#32

/-- The decoder on a word numbered as spec/opcode_table.json numbers it: bit 0 is the least significant bit,
bits at and above `nbits` are 0 (every command is one 32-bit bus word, R75, so no byte order enters). -/
def decodeTableWord (nbits w : Nat) : Option Instr :=
  match decode (BitVec.ofNat 32 (w % 2 ^ nbits)) with
  | .ok i => some i
  | .error _ => none

end Sys2Proof
end

