-- ==== Sys2Proof/Machine/Params.lean ====
section
/-! DEFINITION. The derived parameters (R9), the legal domain of a configuration (R10) and the Push3 instance
(R8), the one whose values are normative for this hardware. -/

namespace Sys2Proof

/-- `ceil_div(a, b) = (a + b - 1) / b` (R13). -/
def ceilDiv (a b : Nat) : Nat := (a + b - 1) / b

/-- `PITCH = 2*W + PAD` (R9). -/
def Config.pitch (c : Config) : Nat := 2 * c.width + c.pad

/-- `FB_LEN = H * PITCH`, exactly, with no rounding (R9, R11). -/
def Config.fbLen (c : Config) : Nat := c.height * c.pitch

/-- `NCHUNKS = ceil_div(FB_LEN, CHUNK_MAX)` (R9). -/
def Config.nchunks (c : Config) : Nat := ceilDiv c.fbLen c.chunkMax

/-- The number of SRC entries, `W*H` (R36). -/
def Config.pixels (c : Config) : Nat := c.width * c.height

/-- R10: the legal configurations. `0 <= PAD` and `EP_OUT` in 0..255 hold by the fields' types. -/
def Config.legal (c : Config) : Bool :=
  decide (1 ≤ c.width) && decide (1 ≤ c.height) && decide (1 ≤ c.chunkMax)
    && decide (c.width ≤ 65535) && decide (c.height ≤ 65535)
    && decide (4 * c.width * c.height ≤ 0x100000) && decide (c.fbLen ≤ 0x100000)
    && decide (c.header.length = 16) && decide (c.key.length = 4)

/-- The Push3 instance (R8); its endpoint is the open parameter (log entry 2). -/
def Config.push3 : Config where
  width := 960
  height := 160
  pad := 128
  key := [0xE7#8, 0xF3#8, 0xE7#8, 0xFF#8]
  chunkMax := 16384
  header := [0xFF#8, 0xCC#8, 0xAA#8, 0x88#8] ++ List.replicate 12 0x00#8
  epOut := Config.pushEndpoint

end Sys2Proof
end

