-- ==== Sys2Proof/Machine/State.lean ====
section
/-! DEFINITION. The state of the block as plain data (10_state.md), the reasons an access or a step can stop,
and the state after reset (R40). INVENTORY.md, under '## State', lists every field with its rule. -/

namespace Sys2Proof.Machine

/-- A sparse memory: (index, value) pairs with indices strictly rising. An index that is not listed is
UNKNOWN (R36, R37): it has no value, and who reads it says what happens (R56). Since UNKNOWN is no value, no
entry can equal what an unlisted index reads as. FB is `Memory Byte`, a list of `Host.Cell`. -/
abbrev Memory (α : Type) := List (Nat × α)

/-- PHASE, the Engine's sequencing phase (R22). The encodings 6 and 7 are never held, so they are no values. -/
inductive Phase where
  /-- 0: no frame has been started since reset. -/
  | idle
  /-- 1: SEND accepted; the header transport write is outstanding. -/
  | header
  /-- 2: the header write returned Ok; the obfuscation pass is due. -/
  | headerSent
  /-- 3: the write of chunk CHUNK_INDEX is outstanding. -/
  | sending
  /-- 4: the last chunk write returned Ok. -/
  | complete
  /-- 5: a transport write of this frame returned Err. -/
  | failed
  deriving DecidableEq, Repr

/-- ERROR.CODE (R26). The codes 6..15 are never produced, so they are no values. -/
inductive ErrorCode where
  /-- 0: the last command or frame ended without error. -/
  | noError
  /-- 1: raised by BUILD (R88). -/
  | invalidSourceGeometry
  /-- 2: raised by the Engine steps of SEND (R109, R111). -/
  | transportWriteFailed
  /-- 3: raised by command decode (R73). -/
  | illegalCommand
  /-- 4: raised by any command while BUSY = 1 (R123). -/
  | busy
  /-- 5: raised by SEND while FB_VALID = 0 (R108). -/
  | noValidFramebuffer
  deriving DecidableEq, Repr

/-- The ERROR register's fields (R25): CODE, and STAGE (`false` = 0, header; `true` = 1, chunk). -/
structure ErrorReg where
  code : ErrorCode
  stage : Bool
  deriving DecidableEq, Repr

/-- The third part of a TXLOG entry: the answer (R42), or that a reset abandoned the write (R139). -/
inductive TxResult where
  | ok
  | err
  | abandoned
  deriving DecidableEq, Repr

/-- One TXLOG entry `(ep, bytes, answer)` (R42). -/
structure TxEntry where
  ep : Byte
  bytes : List Byte
  result : TxResult
  deriving DecidableEq, Repr

/-- The width of a host access (R49): 8, 16 or 32 bits. -/
inductive AccessWidth where
  | byte
  | half
  | word
  deriving DecidableEq, Repr

/-- One event of the agents of R7: a host transaction (the two statements of R77 that look at what they read among
them), an Engine step with the Transport's answer it needs, the Engine step that needs none, or the reset input. -/
inductive Input where
  /-- `MemRead(addr, width)`; the block admits 32-bit reads only (R49). -/
  | read (width : AccessWidth) (addr : Word)
  /-- `MemWrite(addr, width, value)`; the block admits 32-bit writes only (R49). -/
  | write (width : AccessWidth) (addr value : Word)
  /-- The Transport answers the outstanding write, and its Engine step happens (R109, R111). -/
  | answer (a : Answer)
  /-- The HEADER_SENT step of the Engine happens (R110). -/
  | enginePass
  /-- The reset input fires (R138). -/
  | reset
  /-- `WAITIDLE` (R77): the Host's loop that reads STATUS until BUSY is clear, one read a step. `gaps` is the
  schedule of the reads: its head says how many events of the other agents happen after a read that finds BUSY set
  and before the next one; where `gaps` has run out, one does (log entry 18). -/
  | waitIdle (gaps : List Nat)
  /-- `CHECKERR code` (R77): the Host reads ERROR and compares its CODE field with `code`. -/
  | checkErr (code : Nat)
  deriving DecidableEq, Repr

/-- How a host transaction completes (R45). -/
inductive Response where
  /-- `OK` of a read, with its 32 bits of data. -/
  | data (value : Word)
  /-- `OK` of a write. -/
  | done
  /-- `BusError`: the access had no effect on any state. -/
  | busError
  deriving DecidableEq, Repr

/-- The state of the block. The fields from `inputs` on are the MODEL's own, not the spec's. -/
structure State where
  /-- The implementation parameters (R8); nothing changes them. -/
  cfg : Config
  /-- STATUS.PHASE (R21, R22, R33). BUSY is derived from it (R23). -/
  phase : Phase
  /-- STATUS.FB_VALID (R24). -/
  fbValid : Bool
  /-- ERROR (R25, R122). -/
  error : ErrorReg
  /-- RESULT[15:0] (R27). -/
  result : Packed
  /-- SRC_WIDTH[15:0] (R28). -/
  srcWidth : BitVec 16
  /-- SRC_HEIGHT[15:0] (R29). -/
  srcHeight : BitVec 16
  /-- BYTES_SENT (R30). -/
  bytesSent : Word
  /-- CHUNK_INDEX (R31), the Engine's chunk index `i` (R33). -/
  chunkIndex : Word
  /-- SRC (R36): `SRC[j]` for `0 <= j < W*H`; an unlisted entry is UNKNOWN. -/
  src : Memory Rgb
  /-- FB (R37): `FB[i]` for `0 <= i < FB_LEN`; an unlisted byte is UNKNOWN. -/
  fb : Memory Byte
  /-- TXLOG (R42), oldest entry first. -/
  txlog : List TxEntry
  /-- MODEL: the events still to happen, next one first (log entry 1). -/
  inputs : List Input
  /-- MODEL: the response of every host transaction so far, oldest first (log entry 6). -/
  hostLog : List Response
  /-- MODEL: for every `CHECKERR` so far, whether the Host read the code it expected (R77; log entry 18). -/
  checks : List Bool
  /-- MODEL: how many draws have been made (log entry 3). -/
  draws : Nat
  deriving DecidableEq, Repr

/-- Why a host access gets BusError (R120). Raised by the host port (`Machine/HostPort.lean`) as the outcome of
the ACCESS; the step that carries the access then completes with the response BusError and no other change
(R45, R118), so no step of the machine ends in a fault. SAFE: the access has no effect (log entry 7). -/
inductive Fault where
  /-- The access is not 32 bits wide (R49). Raised by `accessTarget`; safe. -/
  | accessWidth
  /-- The offset is not a multiple of 4 (R49). Raised by `accessTarget`; safe. -/
  | misaligned
  /-- The offset is in no window, is an unlisted REG offset, or is past the end of SRC or FB (R50). Raised by
  `accessTarget`; safe. -/
  | unmapped
  /-- A write to the FB window (R54). Raised by `hostWrite`; safe. -/
  | fbWrite
  deriving DecidableEq, Repr

/-- Why a step is refused. -/
inductive Refusal where
  /-- An instruction without a meaning, by its mnemonic. No arm of `exec` answers it; safe. -/
  | notModelled (mnemonic : String)
  /-- The configuration is outside the domain of R10 ("A model refuses a configuration outside this domain",
  U11). Raised by `step`; safe, since no block with such a configuration exists. -/
  | configOutsideDomain
  deriving DecidableEq, Repr

/-- The Push3 block right after reset (R40): nothing outstanding, SRC and FB UNKNOWN everywhere. TXLOG is
empty, since nothing has been sent yet (log entry 8). -/
def State.reset : State where
  cfg := Config.push3
  phase := .idle
  fbValid := false
  error := ⟨.noError, false⟩
  result := 0
  srcWidth := 0
  srcHeight := 0
  bytesSent := 0
  chunkIndex := 0
  src := []
  fb := []
  txlog := []
  inputs := []
  hostLog := []
  checks := []
  draws := 0

end Sys2Proof.Machine
end

