-- ==== Sys2Proof/Machine/Flags.lean ====
section
/-! DEFINITION. The status bits and the encodings of STATUS and ERROR (R21 to R26). The block has no condition
codes and no arithmetic flags (R35): these are all its flags. -/

namespace Sys2Proof.Machine

/-- The 3-bit encoding of PHASE (R22). -/
def Phase.bits : Phase → BitVec 3
  | .idle => 0#3
  | .header => 1#3
  | .headerSent => 2#3
  | .sending => 3#3
  | .complete => 4#3
  | .failed => 5#3

/-- R23: BUSY is 1 exactly in HEADER, HEADER_SENT and SENDING. -/
def Phase.busy : Phase → Bool
  | .idle => false
  | .header => true
  | .headerSent => true
  | .sending => true
  | .complete => false
  | .failed => false

/-- STATUS.BUSY, a function of PHASE and no state of its own (R23). -/
def State.busy (s : State) : Bool := s.phase.busy

/-- The 4-bit encoding of ERROR.CODE (R26). -/
def ErrorCode.bits : ErrorCode → BitVec 4
  | .noError => 0#4
  | .invalidSourceGeometry => 1#4
  | .transportWriteFailed => 2#4
  | .illegalCommand => 3#4
  | .busy => 4#4
  | .noValidFramebuffer => 5#4

/-- What STATUS reads: PHASE in [2:0], BUSY in [3], FB_VALID in [4], the rest 0 (R21). -/
def statusWord (s : State) : Word :=
  0#27 ++ BitVec.ofBool s.fbValid ++ BitVec.ofBool s.busy ++ s.phase.bits

/-- What ERROR reads: CODE in [3:0], STAGE in [8], the rest 0 (R25). -/
def errorWord (s : State) : Word :=
  0#23 ++ BitVec.ofBool s.error.stage ++ 0#4 ++ s.error.code.bits

end Sys2Proof.Machine
end

