-- ==== Sys2Proof/Machine/Ops.lean ====
section
/-! DEFINITION. The named operations over memory and state: reading and writing a sparse memory, the draws,
the two logs, and the entry into an error (R121, R126), the one operation every rejected command goes through.
The block has no trap, no handler and no return-from-error command (R126, R127). -/

namespace Sys2Proof.Machine

/-- The value at index `a`, or `none` where the memory is UNKNOWN (R36, R37, R56). -/
def Memory.read {α : Type} : Memory α → Nat → Option α
  | [], _ => none
  | (k, v) :: rest, a => if k = a then some v else Memory.read rest a

/-- Make index `a` known, with value `v`; every other index keeps what it had. -/
def Memory.write {α : Type} : Memory α → Nat → α → Memory α
  | [], a, v => [(a, v)]
  | (k, w) :: rest, a, v =>
    if a < k then (a, v) :: (k, w) :: rest
    else if a = k then (a, v) :: rest
    else (k, w) :: Memory.write rest a v

/-- The canonical form: indices strictly rising. -/
def Memory.wf {α : Type} (m : Memory α) : Bool :=
  decide (List.Pairwise (fun p q => p.1 < q.1) m)

/-- Every listed index is below `n`, the memory's size. -/
def Memory.within {α : Type} (m : Memory α) (n : Nat) : Bool :=
  m.all fun p => decide (p.1 < n)

/-- R121: end the command with `code` and STAGE 0. The checks of a command come before any other write, so this
is all a rejected command does, apart from what its raising line names. -/
def raiseError (code : ErrorCode) (s : State) : State :=
  { s with error := ⟨code, false⟩ }

/-- `csr.ERROR <- {CODE = NONE, STAGE = 0}`, the report of a command or frame that ends well (R122). -/
def reportNone (s : State) : State :=
  { s with error := ⟨.noError, false⟩ }

/-- The outcome part of a TXLOG entry that an answer gives (R42). -/
def answerResult : Answer → TxResult
  | .ok => .ok
  | .err => .err

/-- Append one entry to TXLOG, with the endpoint every transport write carries (R42, R104). -/
def logTx (bytes : List Byte) (r : TxResult) (s : State) : State :=
  { s with txlog := s.txlog ++ [⟨s.cfg.epOut, bytes, r⟩] }

/-- Record that `n` draws have been made, so that every later draw is a fresh one (R14, R56; log entry 3). -/
def useDraws (n : Nat) (s : State) : State :=
  { s with draws := s.draws + n }

/-- Complete a host transaction with a response (R45; log entry 6). -/
def respond (r : Response) (s : State) : State :=
  { s with hostLog := s.hostLog ++ [r] }

/-- The Host notes whether a `CHECKERR` met the code it expected (R77; log entry 18). -/
def noteCheck (met : Bool) (s : State) : State :=
  { s with checks := s.checks ++ [met] }

/-- The events still to happen, replaced by `l` (log entries 1 and 18). -/
def setInputs (l : List Input) (s : State) : State :=
  { s with inputs := l }

/-- The event at the head of the schedule has happened (log entry 1). -/
def dropInput (s : State) : State :=
  { s with inputs := s.inputs.tail }

end Sys2Proof.Machine
end

