-- ==== Sys2Proof/Machine/Operands.lean ====
section
/-! DEFINITION. The operand forms: the channels of a source pixel (R85), the two bytes of a packed pixel (R81),
the key byte of an index (R94), the bytes of FB as they are read and sent (R52, R111), and the little-endian
word of four bytes (R46). -/

namespace Sys2Proof.Machine

/-- The red channel of an RGB888 entry, bits [23:16] (R36, R85). -/
def redOf (p : Rgb) : Byte := p.extractLsb' 16 8

/-- The green channel of an RGB888 entry, bits [15:8] (R36, R85). -/
def greenOf (p : Rgb) : Byte := p.extractLsb' 8 8

/-- The blue channel of an RGB888 entry, bits [7:0] (R36, R85). -/
def blueOf (p : Rgb) : Byte := p.extractLsb' 0 8

/-- `byte0` of a packed pixel, its low byte, which lies lower and leaves first (R47, R81). -/
def lowByte (p : Packed) : Byte := p.extractLsb' 0 8

/-- `byte1` of a packed pixel, its high byte (R47, R81). -/
def highByte (p : Packed) : Byte := p.extractLsb' 8 8

/-- The SRC index of pixel (x, y): `j = y*W + x` (R36). -/
def pixelIndex (c : Config) (x y : Nat) : Nat := y * c.width + x

/-- `KEY[i % 4]`, the key byte of the absolute FB index `i` (R94, R95). -/
def keyByte (key : List Byte) (i : Nat) : Byte := key.getD (i % 4) 0

/-- The 32-bit word of four bytes, the lowest offset in bits [7:0] (R46). -/
def wordOfBytes (b0 b1 b2 b3 : Byte) : Word := b3 ++ b2 ++ b1 ++ b0

/-- A byte of FB where a value is needed: what it holds, or draw number `k` from now where it is UNKNOWN
(R52, R56, R111). -/
def fbByteOrDraw (s : State) (i k : Nat) : Byte :=
  (s.fb.read i).getD (Config.draw8 (s.draws + k))

end Sys2Proof.Machine
end

