-- ==== Sys2Proof/Machine/Pixel.lean ====
section
/-! DEFINITION. The pixel codec and the command PACK (40_pixel_codec.md). -/

namespace Sys2Proof.Machine

/-- R79: `((r>>3)&0x1F)<<11 | ((g>>2)&0x3F)<<5 | ((b>>3)&0x1F)`, bit for bit. -/
def encode565 (r g b : Byte) : Packed :=
  ((r.setWidth 16 >>> 3) &&& 0x1F#16) <<< 11
    ||| ((g.setWidth 16 >>> 2) &&& 0x3F#16) <<< 5
    ||| ((b.setWidth 16 >>> 3) &&& 0x1F#16)

/-- The packed form of an RGB888 entry of SRC (R85, R87). -/
def encodePixel (p : Rgb) : Packed := encode565 (redOf p) (greenOf p) (blueOf p)

/-- R80: PACK. -/
def execPack (r g b : Byte) (s : State) : Host.Outcome State Fault Refusal :=
  if s.busy then .next (raiseError .busy s)
  else .next (reportNone { s with result := encode565 r g b })

end Sys2Proof.Machine
end

