-- ==== Sys2Proof/Machine/Framebuffer.lean ====
section
/-! DEFINITION. The scanline framebuffer builder and the command BUILD (41_framebuffer_builder.md). -/

namespace Sys2Proof.Machine

/-- The two FB bytes of pixel (x, y), low byte first (R86). An UNKNOWN source pixel leaves both bytes UNKNOWN,
that is, unlisted (R91). -/
def pixelCells (c : Config) (src : Memory Rgb) (y x : Nat) : Memory Byte :=
  match src.read (pixelIndex c x y) with
  | none => []
  | some p =>
    [(y * c.pitch + 2 * x, lowByte (encodePixel p)), (y * c.pitch + 2 * x + 1, highByte (encodePixel p))]

/-- The padding run of scanline `y`: PAD zero bytes from `y*PITCH + 2*W` on (R86). -/
def paddingCells (c : Config) (y : Nat) : Memory Byte :=
  (List.range c.pad).map fun k => (y * c.pitch + 2 * c.width + k, 0#8)

/-- Scanline `y`: its pixels in increasing x, then its padding (R86). -/
def scanlineCells (c : Config) (src : Memory Rgb) (y : Nat) : Memory Byte :=
  (List.range c.width).flatMap (pixelCells c src y) ++ paddingCells c y

/-- All of FB as BUILD writes it: the scanlines in increasing y (R86, R87). -/
def buildFramebuffer (c : Config) (src : Memory Rgb) : Memory Byte :=
  (List.range c.height).flatMap (scanlineCells c src)

/-- R88: whether the declared geometry is the block's. -/
def geometryMatches (s : State) : Bool :=
  decide (s.srcWidth.toNat = s.cfg.width) && decide (s.srcHeight.toNat = s.cfg.height)

/-- R87: BUILD, with its geometry check (R88), its effect on FB_VALID (R89) and FB kept when it fails (R90). -/
def execBuild (s : State) : Host.Outcome State Fault Refusal :=
  if s.busy then .next (raiseError .busy s)
  else if geometryMatches s then
    .next (reportNone { s with fb := buildFramebuffer s.cfg s.src, fbValid := true })
  else .next (raiseError .invalidSourceGeometry { s with fbValid := false })

end Sys2Proof.Machine
end

