-- ==== Sys2Proof/Machine/Obfuscator.lean ====
section
/-! DEFINITION. The repeating-XOR obfuscator and the command XOR (42_obfuscator.md). -/

namespace Sys2Proof.Machine

/-- R94: `apply(buf, key)[i] = buf[i] ^ key[i % 4]`. -/
def obfuscate (buf key : List Byte) : List Byte :=
  buf.mapIdx fun i b => b ^^^ keyByte key i

/-- The in-place pass over all of FB (R99, R110): every known byte is XORed with the key byte of its absolute
index (R95), and an UNKNOWN byte stays UNKNOWN (R100). -/
def obfuscateFb (c : Config) (fb : Memory Byte) : Memory Byte :=
  fb.map fun p => (p.1, p.2 ^^^ keyByte c.key p.1)

/-- R99: XOR, whatever FB_VALID is. -/
def execXor (s : State) : Host.Outcome State Fault Refusal :=
  if s.busy then .next (raiseError .busy s)
  else .next (reportNone { s with fb := obfuscateFb s.cfg s.fb, fbValid := false })

end Sys2Proof.Machine
end

