-- ==== Sys2Proof/Machine/Frame.lean ====
section
/-! DEFINITION. The chunk partition (R106), the outstanding transport write (R41) and the command SEND (R108).
The Engine's own steps stand in `Machine/Engine.lean`. -/

namespace Sys2Proof.Machine

/-- The FB index of the first byte of chunk `i` (R106, R111). -/
def chunkStart (c : Config) (i : Nat) : Nat := i * c.chunkMax

/-- One past the FB index of the last byte of chunk `i`: `min(s + CHUNK_MAX, FB_LEN)` (R106, R111). -/
def chunkEnd (c : Config) (i : Nat) : Nat := min (chunkStart c i + c.chunkMax) c.fbLen

/-- `len(i)`, the number of bytes of chunk `i` (R106). -/
def chunkLen (c : Config) (i : Nat) : Nat := chunkEnd c i - chunkStart c i

/-- The bytes of chunk `i` in increasing index order; an UNKNOWN byte is sent as a draw (R91, R111). -/
def chunkBytes (s : State) (i : Nat) : List Byte :=
  (List.range (chunkLen s.cfg i)).map fun k => fbByteOrDraw s (chunkStart s.cfg i + k) k

/-- R41: the bytes of the transport write that is outstanding: the header in HEADER, chunk CHUNK_INDEX in
SENDING, and none in any other phase. -/
def outstandingWrite (s : State) : Option (List Byte) :=
  match s.phase with
  | .idle => none
  | .header => some s.cfg.header
  | .headerSent => none
  | .sending => some (chunkBytes s s.chunkIndex.toNat)
  | .complete => none
  | .failed => none

/-- R108: SEND. It issues no transport write; the Engine does, on its own steps. -/
def execSend (s : State) : Host.Outcome State Fault Refusal :=
  if s.busy then .next (raiseError .busy s)
  else if s.fbValid then
    .next (reportNone { s with fbValid := false, bytesSent := 0, chunkIndex := 0, phase := .header })
  else .next (raiseError .noValidFramebuffer s)

end Sys2Proof.Machine
end

