-- ==== Sys2Proof/Machine/Dispatch.lean ====
section
/-! DEFINITION. One arm per command: what a decoded command does inside its CMD write (R72, R124). -/

namespace Sys2Proof.Machine

def exec (i : Instr) (s : State) : Host.Outcome State Fault Refusal :=
  match i with
  | .pack r g b => Sys2Proof.Machine.execPack r g b s
  | .build => Sys2Proof.Machine.execBuild s
  | .xor => Sys2Proof.Machine.execXor s
  | .send => Sys2Proof.Machine.execSend s

end Sys2Proof.Machine
end

