-- ==== Sys2Proof/Machine/Engine.lean ====
section
/-! DEFINITION. The Engine's own steps of a SEND (R109 to R112) and which of them an event enables. -/

namespace Sys2Proof.Machine

/-- R109: the header write is answered. -/
def headerStep (a : Answer) (s : State) : State :=
  let t := logTx s.cfg.header (answerResult a) s
  match a with
  | .ok => { t with phase := .headerSent }
  | .err => { t with phase := .failed, error := ⟨.transportWriteFailed, false⟩ }

/-- R110: the obfuscation pass over FB, one indivisible step (R57). -/
def obfuscationStep (s : State) : State :=
  { s with fb := obfuscateFb s.cfg s.fb, chunkIndex := 0, phase := .sending }

/-- R111: the write of chunk `i = CHUNK_INDEX` is answered. -/
def chunkStep (a : Answer) (s : State) : State :=
  let i := s.chunkIndex.toNat
  let bytes := chunkBytes s i
  let t := useDraws bytes.length (logTx bytes (answerResult a) s)
  match a with
  | .ok =>
    if i + 1 = s.cfg.nchunks then
      reportNone { t with
        bytesSent := s.bytesSent + BitVec.ofNat 32 bytes.length,
        chunkIndex := BitVec.ofNat 32 s.cfg.nchunks,
        phase := .complete }
    else
      { t with
        bytesSent := s.bytesSent + BitVec.ofNat 32 bytes.length,
        chunkIndex := BitVec.ofNat 32 (i + 1) }
  | .err => { t with phase := .failed, error := ⟨.transportWriteFailed, true⟩ }

/-- The Transport's answer reaches the block: the Engine step it belongs to happens. With no write outstanding
there is no such step, and the block ignores the answer (R41, R112, R139; log entry 9). -/
def transportAnswer (a : Answer) (s : State) : State :=
  match s.phase with
  | .idle => s
  | .header => headerStep a s
  | .headerSent => s
  | .sending => chunkStep a s
  | .complete => s
  | .failed => s

/-- The Engine step that needs no input: enabled in HEADER_SENT (R110), in no other phase (R41, R112; log
entry 9). -/
def enginePass (s : State) : State :=
  match s.phase with
  | .idle => s
  | .header => s
  | .headerSent => obfuscationStep s
  | .sending => s
  | .complete => s
  | .failed => s

end Sys2Proof.Machine
end

