-- ==== Sys2Proof/Machine/ResetInput.lean ====
section
/-! DEFINITION. The reset input (R138 to R141). -/

namespace Sys2Proof.Machine

/-- The part of an abandoned write that the device may have received: its first `n` bytes, `n` a draw in
0..len, both ends included (R139; log entry 4). -/
def deliveredPart (bytes : List Byte) (draw : Nat) : List Byte :=
  bytes.take (draw % (bytes.length + 1))

/-- R139: what a reset appends to TXLOG, and the draws that takes. -/
def abandonWrite (s : State) : State :=
  match outstandingWrite s with
  | none => s
  | some bytes =>
    useDraws (bytes.length + 1) (logTx (deliveredPart bytes (Config.drawLength s.draws)) .abandoned s)

/-- R138: every piece of state takes its value of R40. The parameters stay (R138), TXLOG is not cleared (R42,
R141), and the model's own fields are no state of the block. -/
def applyReset (s : State) : State :=
  let t := abandonWrite s
  { State.reset with
    cfg := t.cfg, txlog := t.txlog, inputs := t.inputs, hostLog := t.hostLog, checks := t.checks, draws := t.draws }

end Sys2Proof.Machine
end

