-- ==== Sys2Proof/Machine/Registers.lean ====
section
/-! DEFINITION. The register map and what each register reads (R18 to R32). -/

namespace Sys2Proof.Machine

/-- The registers of R18, each under its own name. -/
inductive Reg where
  | id
  | cmd
  | status
  | error
  | result
  | srcWidth
  | srcHeight
  | bytesSent
  | chunkIndex
  | cfgWidth
  | cfgHeight
  | cfgPad
  | cfgPitch
  | cfgFbLen
  | cfgChunkMax
  | cfgNchunks
  | cfgKey
  | cfgEp
  | header0
  | header1
  | header2
  | header3
  deriving DecidableEq, Repr

/-- R18: the offset of each register in the REG window; every offset not listed is unmapped. -/
def registerMap : Memory Reg :=
  [(0x000, .id), (0x004, .cmd), (0x008, .status), (0x00C, .error), (0x010, .result),
   (0x014, .srcWidth), (0x018, .srcHeight), (0x01C, .bytesSent), (0x020, .chunkIndex)] ++
  [(0x040, .cfgWidth), (0x044, .cfgHeight), (0x048, .cfgPad), (0x04C, .cfgPitch),
   (0x050, .cfgFbLen), (0x054, .cfgChunkMax), (0x058, .cfgNchunks), (0x05C, .cfgKey),
   (0x060, .cfgEp)] ++
  [(0x070, .header0), (0x074, .header1), (0x078, .header2), (0x07C, .header3)]

/-- What CFG_CHUNK_MAX reads: CHUNK_MAX zero-extended where it fits 32 bits (R32), a free value where it does
not (log entry 5). -/
def chunkMaxWord (c : Config) : Word :=
  if c.chunkMax < 2 ^ 32 then BitVec.ofNat 32 c.chunkMax else Config.wideChunkMax c.chunkMax

/-- `HEADERk = {HEADER[4k+3], HEADER[4k+2], HEADER[4k+1], HEADER[4k]}` (R32). -/
def headerWord (c : Config) (k : Nat) : Word :=
  wordOfBytes (c.header.getD (4 * k) 0) (c.header.getD (4 * k + 1) 0) (c.header.getD (4 * k + 2) 0)
    (c.header.getD (4 * k + 3) 0)

/-- `CFG_KEY = {KEY[3], KEY[2], KEY[1], KEY[0]}` (R32). -/
def keyWord (c : Config) : Word :=
  wordOfBytes (c.key.getD 0 0) (c.key.getD 1 0) (c.key.getD 2 0) (c.key.getD 3 0)

/-- What a register reads; no read has a side effect (R19 to R32, R52). -/
def readReg (s : State) : Reg → Word
  | .id => 0x50334645#32
  | .cmd => 0x00000000#32
  | .status => statusWord s
  | .error => errorWord s
  | .result => s.result.setWidth 32
  | .srcWidth => s.srcWidth.setWidth 32
  | .srcHeight => s.srcHeight.setWidth 32
  | .bytesSent => s.bytesSent
  | .chunkIndex => s.chunkIndex
  | .cfgWidth => BitVec.ofNat 32 s.cfg.width
  | .cfgHeight => BitVec.ofNat 32 s.cfg.height
  | .cfgPad => BitVec.ofNat 32 s.cfg.pad
  | .cfgPitch => BitVec.ofNat 32 s.cfg.pitch
  | .cfgFbLen => BitVec.ofNat 32 s.cfg.fbLen
  | .cfgChunkMax => chunkMaxWord s.cfg
  | .cfgNchunks => BitVec.ofNat 32 s.cfg.nchunks
  | .cfgKey => keyWord s.cfg
  | .cfgEp => s.cfg.epOut.setWidth 32
  | .header0 => headerWord s.cfg 0
  | .header1 => headerWord s.cfg 1
  | .header2 => headerWord s.cfg 2
  | .header3 => headerWord s.cfg 3

end Sys2Proof.Machine
end

