-- ==== Sys2Proof/Machine/HostPort.lean ====
section
/-! DEFINITION. The host port: the address map (R48 to R50), reads (R52) and writes (R53), the command write
(R72, R73), and how a transaction completes (R45). -/

namespace Sys2Proof.Machine

/-- What an admitted offset names (R48). -/
inductive Target where
  /-- A register of the REG window. -/
  | reg (r : Reg)
  /-- Entry `j` of SRC. -/
  | src (j : Nat)
  /-- The word of FB whose lowest byte is `FB[i]`. -/
  | fb (i : Nat)
  deriving DecidableEq, Repr

/-- The offset of the SRC window (R48). -/
def srcBase : Nat := 0x00100000

/-- The offset of the FB window (R48). -/
def fbBase : Nat := 0x00200000

/-- R48 and R50: what the offset `a`, a multiple of 4, names, or `none` where it is unmapped. The last word of
FB may hold fewer than 4 FB bytes; it is mapped when its lowest byte is one (R49). -/
def mapOffset (c : Config) (a : Nat) : Option Target :=
  if a < 0x100 then (registerMap.read a).map .reg
  else if srcBase ≤ a ∧ a < srcBase + 4 * c.pixels then some (.src ((a - srcBase) / 4))
  else if fbBase ≤ a ∧ a < fbBase + c.fbLen then some (.fb (a - fbBase))
  else none

/-- R49 and R50: what a host access names, or why it gets BusError. -/
def accessTarget (c : Config) (width : AccessWidth) (addr : Word) : Except Fault Target :=
  if width ≠ .word then .error .accessWidth
  else if addr.toNat % 4 ≠ 0 then .error .misaligned
  else
    match mapOffset c addr.toNat with
    | none => .error .unmapped
    | some t => .ok t

/-- The data of a completed read, and how many draws it took. -/
structure ReadData where
  value : Word
  drawn : Nat
  deriving DecidableEq, Repr

/-- A read of `SRC[j]`: `zext_32(SRC[j])`, or `zext_32(draw_24())` where the entry is UNKNOWN (R51, R52). -/
def readSrc (s : State) (j : Nat) : ReadData :=
  match s.src.read j with
  | some p => ⟨p.setWidth 32, 0⟩
  | none => ⟨(Config.draw24 s.draws).setWidth 32, 1⟩

/-- Byte lane `k` of the FB word at `FB[i]`: 0 past FB_LEN, a draw where FB is UNKNOWN (R49, R52). -/
def fbLane (s : State) (i k : Nat) : Byte :=
  if s.cfg.fbLen ≤ i + k then 0#8 else fbByteOrDraw s (i + k) k

/-- A read of the FB word at `FB[i]` (R52); while BUSY = 1 the value is a 32-bit draw (R55). -/
def readFb (s : State) (i : Nat) : ReadData :=
  if s.busy then ⟨Config.draw32 s.draws, 1⟩
  else ⟨wordOfBytes (fbLane s i 0) (fbLane s i 1) (fbLane s i 2) (fbLane s i 3), 4⟩

/-- R52: `MemRead` at an admitted target. -/
def readTarget (s : State) : Target → ReadData
  | .reg r => ⟨readReg s r, 0⟩
  | .src j => readSrc s j
  | .fb i => readFb s i

/-- `MemRead` of any width at any offset: the data, or the reason for a BusError. -/
def hostRead (width : AccessWidth) (addr : Word) (s : State) : Except Fault ReadData :=
  match accessTarget s.cfg width addr with
  | .ok t => .ok (readTarget s t)
  | .error f => .error f

/-- R72, R73 and R124: a word written to CMD is decoded before anything else. An ILLEGAL word raises
ILLEGAL_COMMAND, even while BUSY = 1; any other runs as its command. -/
def issueCommand (cmd : Word) (s : State) : Host.Outcome State Fault Refusal :=
  match decode cmd with
  | .ok i => exec i s
  | .error _ => .next (raiseError .illegalCommand s)

/-- A write to a register (R53): CMD issues a command, SRC_WIDTH and SRC_HEIGHT store `v[15:0]` (R28, R29), and
a read-only register ignores it. -/
def writeReg (r : Reg) (v : Word) (s : State) : Host.Outcome State Fault Refusal :=
  match r with
  | .cmd => issueCommand v s
  | .srcWidth => .next { s with srcWidth := v.extractLsb' 0 16 }
  | .srcHeight => .next { s with srcHeight := v.extractLsb' 0 16 }
  | .id | .status | .error | .result | .bytesSent | .chunkIndex => .next s
  | .cfgWidth | .cfgHeight | .cfgPad | .cfgPitch | .cfgFbLen => .next s
  | .cfgChunkMax | .cfgNchunks | .cfgKey | .cfgEp => .next s
  | .header0 | .header1 | .header2 | .header3 => .next s

/-- A write to `SRC[j]` stores `v[23:0]`, BUSY or not (R51, R53). -/
def writeSrc (j : Nat) (v : Word) (s : State) : State :=
  { s with src := s.src.write j (v.extractLsb' 0 24) }

/-- `MemWrite` of any width at any offset (R53): its effect, or the reason for a BusError; the FB window is
read-only to the Host (R54). -/
def hostWrite (width : AccessWidth) (addr v : Word) (s : State) : Host.Outcome State Fault Refusal :=
  match accessTarget s.cfg width addr with
  | .error f => .fault f
  | .ok (.reg r) => writeReg r v s
  | .ok (.src j) => .next (writeSrc j v s)
  | .ok (.fb _) => .fault .fbWrite

/-- R45: a read completes OK with its data, or with BusError and no effect. A read changes no state of the block
(R52); only the model's own log and draw counter move. -/
def readTransaction (width : AccessWidth) (addr : Word) (s : State) : State :=
  match hostRead width addr s with
  | .ok d => respond (.data d.value) (useDraws d.drawn s)
  | .error _ => respond .busError s

/-- R45: a write completes OK with its effect, or with BusError and no effect (log entry 7). -/
def writeTransaction (width : AccessWidth) (addr v : Word) (s : State) :
    Host.Outcome State Fault Refusal :=
  match hostWrite width addr v s with
  | .next t => .next (respond .done t)
  | .fault _ => .next (respond .busError s)
  | .refused r => .refused r

end Sys2Proof.Machine
end

