-- ==== Sys2Proof/Machine/HostLoop.lean ====
section
/-! DEFINITION. The two host statements of R77 whose course depends on what they read: the loop `WAITIDLE` and the
expectation `CHECKERR`. -/

namespace Sys2Proof.Machine

/-- Whether an event is the Host's. The Host's own events keep their order (R61). -/
def Input.fromHost : Input → Bool
  | .read _ _ => true
  | .write _ _ _ => true
  | .answer _ => false
  | .enginePass => false
  | .reset => false
  | .waitIdle _ => true
  | .checkErr _ => true

/-- Where a loop that goes on stands among the pending events: after up to `gap` events of the other agents, and
before every later event of the Host (R61; log entry 18). -/
def resumeAfter (w : Input) : Nat → List Input → List Input
  | 0, l => w :: l
  | _ + 1, [] => [w]
  | gap + 1, e :: rest => if e.fromHost then w :: e :: rest else e :: resumeAfter w gap rest

/-- The value that a 32-bit read at `off` gives the Host; a BusError gives none (R45). -/
def valueRead (off : Word) (s : State) : Option Word :=
  match hostRead .word off s with
  | .ok d => some d.value
  | .error _ => none

/-- One turn of `WAITIDLE` (R77): `RD 0x008 -> s`, and again unless `s[3] == 0`. -/
def pollIdle (gaps : List Nat) (s : State) : State :=
  let t := readTransaction .word 0x008#32 s
  if (valueRead 0x008#32 s).any fun v => v.extractLsb' 3 1 = 0#1 then t
  else setInputs (resumeAfter (.waitIdle gaps.tail) (gaps.headD 1) s.inputs) t

/-- `CHECKERR code` (R77): `RD 0x00C -> e`, and whether `e[3:0] == code`. -/
def checkError (code : Nat) (s : State) : State :=
  noteCheck ((valueRead 0x00C#32 s).any fun e => (e.extractLsb' 0 4).toNat = code)
    (readTransaction .word 0x00C#32 s)

end Sys2Proof.Machine
end

