-- ==== Sys2Proof/Machine/Schedule.lean ====
section
/-! DEFINITION. One event of the total order of steps (R57, R60): the pending events stand in State as a list,
and each step takes the next one (log entry 1). -/

namespace Sys2Proof.Machine

/-- What happens when one event reaches the block. Each is one indivisible step (R57). -/
def handleInput (e : Input) (s : State) : Host.Outcome State Fault Refusal :=
  match e with
  | .read width addr => .next (readTransaction width addr s)
  | .write width addr value => writeTransaction width addr value s
  | .answer a => .next (transportAnswer a s)
  | .enginePass => .next (enginePass s)
  | .reset => .next (applyReset s)
  | .waitIdle gaps => .next (pollIdle gaps s)
  | .checkErr code => .next (checkError code s)

/-- The next event happens. Where none is pending, the one step that needs no event is the HEADER_SENT pass
(R110), which is taken if it is enabled; in every other phase the block waits (R114, R140; log entry 10). -/
def takeInput (s : State) : Host.Outcome State Fault Refusal :=
  match s.inputs with
  | [] => .next (enginePass s)
  | e :: _ => handleInput e (dropInput s)

/-- R10: the model refuses a configuration outside the legal domain; on every other the next event happens. -/
def stepBlock (s : State) : Host.Outcome State Fault Refusal :=
  if s.cfg.legal then takeInput s else .refused .configOutsideDomain

/-- The Host's write of the command word `w`, of `nbits` bits, to CMD (R20). -/
def commandInput (nbits w : Nat) : Input :=
  .write .word 0x004#32 (BitVec.ofNat 32 (w % 2 ^ nbits))

end Sys2Proof.Machine
end

