-- ==== Sys2Proof/Machine/Step.lean ====
section
/-! DEFINITION. The step function, and the state whose next step runs a given command word. -/

namespace Sys2Proof.Machine

/-- One step of the block (R6, R57). -/
def step (s : State) : Host.Outcome State Fault Refusal := stepBlock s

/-- `s` with the Host's write of the word `w` to CMD as the very next event. The block fetches no instructions
(R33, R66): a command takes effect at the CMD write that carries it (log entry 11). -/
def State.withFetchWord (s : State) (nbits w : Nat) : State :=
  { s with inputs := commandInput nbits w :: s.inputs }

end Sys2Proof.Machine
end

