-- ==== Sys2Proof/Machine/Assembler.lean ====
section
/-! DEFINITION. Host programs (R76, R77): what each statement expands to, as events at the block's inputs. -/

namespace Sys2Proof.Machine

/-- `WR off, val`: a 32-bit host write (R76). -/
def wrInput (off val : Nat) : Input := .write .word (BitVec.ofNat 32 off) (BitVec.ofNat 32 val)

/-- `RD off`: a 32-bit host read (R76). -/
def rdInput (off : Nat) : Input := .read .word (BitVec.ofNat 32 off)

/-- A command used as a host statement: its word written to CMD (R77). -/
def commandStmt (i : Instr) : Input := wrInput 0x004 (encode i).toNat

/-- The SRC word `0x00rrggbb` (R51, R77). -/
def pixelWord (r g b : Nat) : Nat := r * 0x10000 + g * 0x100 + b

/-- R76 and R77: the events a well-formed host statement stands for. The loop and the comparison of the last two
happen in `pollIdle` and `checkError`. -/
def expandStmt (c : Config) : HostStmt → List Input
  | .pack r g b => [commandStmt (.pack (BitVec.ofNat 8 r) (BitVec.ofNat 8 g) (BitVec.ofNat 8 b))]
  | .build => [commandStmt .build]
  | .xor => [commandStmt .xor]
  | .send => [commandStmt .send]
  | .wr off val => [wrInput off val]
  | .rd off => [rdInput off]
  | .reset => [.reset]
  | .tx a => [.answer a]
  | .eng => [.enginePass]
  | .setGeom w h => [wrInput 0x014 w, wrInput 0x018 h]
  | .pix x y r g b => [wrInput (pixelOffset c x y) (pixelWord r g b)]
  | .waitIdle => [.waitIdle []]
  | .checkErr code => [.checkErr code]

/-- A statement assembles when it is well formed (R76: otherwise it "does not assemble"). -/
def assemble (c : Config) (st : HostStmt) : Option (List Input) :=
  if st.wellFormed c then some (expandStmt c st) else none

/-- A program assembles when each of its statements does. -/
def assembleAll (c : Config) : List HostStmt → Option (List Input)
  | [] => some []
  | st :: rest =>
    match assemble c st, assembleAll c rest with
    | some l, some m => some (l ++ m)
    | _, _ => none

end Sys2Proof.Machine
end

