-- ==== Sys2Proof/Safety.lean ====
section
/-! DEFINITION. What a good state and a good run of the block are, in the terms claims use: the invariant of R34
with the canonical form of the memories, where FB's contents come from (R21, R105), what TXLOG says of the frame
in progress (R65, R116), and the phase changes R33 allows. -/

namespace Sys2Proof.Machine

/-- The invariant of R34 and R24, with the legal domain of R10 and the canonical form of both memories. -/
structure State.Inv (s : State) : Prop where
  /-- The configuration is in the domain of R10. -/
  cfg_legal : s.cfg.legal = true
  /-- SRC is in canonical form. -/
  src_wf : s.src.wf = true
  /-- SRC has entries `0 <= j < W*H` only (R36). -/
  src_within : s.src.within s.cfg.pixels = true
  /-- FB is in canonical form. -/
  fb_wf : s.fb.wf = true
  /-- FB has bytes `0 <= i < FB_LEN` only (R37). -/
  fb_within : s.fb.within s.cfg.fbLen = true
  /-- While BUSY = 1, FB_VALID = 0 (R34). -/
  busy_fbValid : s.busy = true → s.fbValid = false
  /-- STAGE is 0 for every CODE but TRANSPORT_WRITE_FAILED (R25). -/
  stage_code : s.error.stage = true → s.error.code = .transportWriteFailed
  /-- In IDLE, HEADER and HEADER_SENT both progress counters are 0 (R34). -/
  early_progress : s.phase = .idle ∨ s.phase = .header ∨ s.phase = .headerSent →
    s.chunkIndex = 0 ∧ s.bytesSent = 0
  /-- In SENDING, `CHUNK_INDEX < NCHUNKS` and `BYTES_SENT = CHUNK_INDEX * CHUNK_MAX` (R34). -/
  sending_progress : s.phase = .sending →
    s.chunkIndex.toNat < s.cfg.nchunks ∧ s.bytesSent.toNat = s.chunkIndex.toNat * s.cfg.chunkMax
  /-- In COMPLETE, `CHUNK_INDEX = NCHUNKS` and `BYTES_SENT = FB_LEN` (R34). -/
  complete_progress : s.phase = .complete →
    s.chunkIndex.toNat = s.cfg.nchunks ∧ s.bytesSent.toNat = s.cfg.fbLen
  /-- In FAILED, `BYTES_SENT = CHUNK_INDEX * CHUNK_MAX` of the chunk that failed (R34; 0 = 0 after a header
  failure, R31). -/
  failed_progress : s.phase = .failed →
    s.chunkIndex.toNat < s.cfg.nchunks ∧ s.bytesSent.toNat = s.chunkIndex.toNat * s.cfg.chunkMax

/-- What the last completed BUILD wrote, after the step from `s`: where that step is a BUILD that completes, the
framebuffer of SRC as it stands in `s` (R87, R89); else `built`, what the BUILD before it wrote. -/
def State.lastBuilt (s : State) (built : Memory Byte) : Memory Byte :=
  if s.inputs.head? = some (.write .word 0x004#32 0x02000000#32) ∧ s.busy = false ∧ geometryMatches s = true
  then buildFramebuffer s.cfg s.src
  else built

/-- Where FB's contents come from (R21, R105, R145), `built` being what the last completed BUILD wrote: a
framebuffer that SEND would accept, or whose frame waits for its obfuscation pass, is that one unmodified; while
chunks go out, it is that one obfuscated once. -/
structure State.FbProvenance (s : State) (built : Memory Byte) : Prop where
  valid_built : s.fbValid = true → s.fb = built
  pending_built : s.phase = .header ∨ s.phase = .headerSent → s.fb = built
  sending_obfuscated : s.phase = .sending → s.fb = obfuscateFb s.cfg built

/-- The TXLOG entry of the header write, with its result (R102 to R104). -/
def headerEntry (c : Config) (r : TxResult) : TxEntry := ⟨c.epOut, c.header, r⟩

/-- `e` is the entry of a write of chunk `k` of the payload `sent`, with result `r`: its endpoint (R104), its
length, and every known byte of the chunk at its place (R106). -/
def isChunkEntry (c : Config) (sent : Memory Byte) (k : Nat) (r : TxResult) (e : TxEntry) : Prop :=
  e.ep = c.epOut ∧ e.bytes.length = chunkLen c k ∧ e.result = r ∧
    ∀ j b, j < chunkLen c k → sent.read (chunkStart c k + j) = some b → e.bytes[j]? = some b

/-- `l` is the entries of the first `n` chunks of the payload `sent`, in order, all answered Ok. -/
def deliveredChunks (c : Config) (sent : Memory Byte) (n : Nat) (l : List TxEntry) : Prop :=
  l.length = n ∧ ∀ k e, l[k]? = some e → isChunkEntry c sent k .ok e

/-- What the end of TXLOG is in each phase of a frame whose payload is `sent` (R65, R105, R115, R116): the header
first, then the chunks of the payload in order, each only after the one before it answered Ok, and nothing after an
Err. -/
structure State.FrameLogged (s : State) (sent : Memory Byte) : Prop where
  headerSent_log : s.phase = .headerSent → ∃ earlier, s.txlog = earlier ++ [headerEntry s.cfg .ok]
  sending_fb : s.phase = .sending → s.fb = sent
  sending_log : s.phase = .sending → ∃ earlier chunks,
    s.txlog = earlier ++ headerEntry s.cfg .ok :: chunks ∧
      deliveredChunks s.cfg sent s.chunkIndex.toNat chunks
  complete_log : s.phase = .complete → ∃ earlier chunks,
    s.txlog = earlier ++ headerEntry s.cfg .ok :: chunks ∧
      deliveredChunks s.cfg sent s.cfg.nchunks chunks
  failed_log : s.phase = .failed →
    (∃ earlier, s.txlog = earlier ++ [headerEntry s.cfg .err] ∧ s.chunkIndex = 0) ∨
    ∃ earlier chunks last,
      s.txlog = earlier ++ headerEntry s.cfg .ok :: (chunks ++ [last]) ∧
        deliveredChunks s.cfg sent s.chunkIndex.toNat chunks ∧
        isChunkEntry s.cfg sent s.chunkIndex.toNat .err last

/-- The changes of the pair `(phase, i)` that R33 allows in one step, or none at all. -/
def phaseStep (s t : State) : Prop :=
  let i := s.chunkIndex.toNat
  let j := t.chunkIndex.toNat
  (t.phase = s.phase ∧ j = i) ∨
  ((s.phase = .idle ∨ s.phase = .complete ∨ s.phase = .failed) ∧ t.phase = .header ∧ j = 0) ∨
  (s.phase = .header ∧ (t.phase = .headerSent ∨ t.phase = .failed) ∧ j = i) ∨
  (s.phase = .headerSent ∧ t.phase = .sending ∧ j = 0) ∨
  (s.phase = .sending ∧ i + 1 < s.cfg.nchunks ∧ t.phase = .sending ∧ j = i + 1) ∨
  (s.phase = .sending ∧ i + 1 = s.cfg.nchunks ∧ t.phase = .complete ∧ j = s.cfg.nchunks) ∨
  (s.phase = .sending ∧ t.phase = .failed ∧ j = i) ∨
  (t.phase = .idle ∧ j = 0)

/-- R150: a run of a frame ends at the first state in which PHASE is COMPLETE or FAILED. -/
def State.frameEnded (s : State) : Prop := s.phase = .complete ∨ s.phase = .failed

/-- How many Engine steps the frame in flight still needs when every write answers Ok: the header write, the
obfuscation pass, and the chunks not yet answered (R109 to R111); 0 when no frame is in flight. -/
def State.stepsToGo (s : State) : Nat :=
  match s.phase with
  | .idle => 0
  | .header => s.cfg.nchunks + 2
  | .headerSent => s.cfg.nchunks + 1
  | .sending => s.cfg.nchunks - s.chunkIndex.toNat
  | .complete => 0
  | .failed => 0

/-- The event that the Engine waits for in the phase of `s`: an answer while a write is outstanding, the pass in
HEADER_SENT (R41, R109 to R111). -/
def engineEvent (s : State) (e : Input) : Prop :=
  ((s.phase = .header ∨ s.phase = .sending) ∧ ∃ a, e = .answer a) ∨
    (s.phase = .headerSent ∧ e = .enginePass)

end Sys2Proof.Machine
end

