-- ==== Sys2Proof/Certificates/Slice0/Obligations.lean ====
section
/-! DEFINITION. The statements for the provers. Each says what the spec says of the block, over all states and
operands; `s.cfg` ranges over every legal configuration (R8, R10) unless a statement names Push3. -/

open Sys2Proof Sys2Proof.Machine

/-! ### Commands: encoding -/

/-- R70 to R72, R75, R76: decoding an encoded command gives it back, with every operand at every value, and every
word has at most one meaning: a word that decodes to `i` is the encoding of `i`. -/
def Obligations.DecodeEncodeAgree : Prop :=
  (∀ i : Instr, i.wellFormed = true → decode (encode i) = .ok i) ∧
    ∀ (w : Word) (i : Instr), decode w = .ok i → encode i = w ∧ i.wellFormed = true

/-- R78: the spec's example words. -/
def Obligations.ExampleWordsDecode : Prop :=
  (encode (.pack 255 0 0) = 0x01FF0000#32 ∧ decode 0x01FF0000#32 = .ok (.pack 255 0 0)) ∧
  (encode (.pack 0x12 0x34 0x56) = 0x01123456#32 ∧
    decode 0x01123456#32 = .ok (.pack 0x12 0x34 0x56)) ∧
  (encode (.pack 0 0 0) = 0x01000000#32 ∧ decode 0x01000000#32 = .ok (.pack 0 0 0)) ∧
  (encode .build = 0x02000000#32 ∧ decode 0x02000000#32 = .ok .build) ∧
  (encode .xor = 0x03000000#32 ∧ decode 0x03000000#32 = .ok .xor) ∧
  (encode .send = 0x04000000#32 ∧ decode 0x04000000#32 = .ok .send) ∧
  decode 0x02000001#32 = .error (.reservedOperandBits 0x02) ∧
  decode 0x00000000#32 = .error (.unassignedOpcode 0x00) ∧
  decode 0x05000000#32 = .error (.unassignedOpcode 0x05)

/-- R73, R74: which words are ILLEGAL, and all that writing one to CMD does, BUSY or not: ERROR becomes
ILLEGAL_COMMAND with STAGE 0, and the write completes OK. -/
def Obligations.IllegalWordsOnlyReport : Prop :=
  ∀ w : Word,
    ((∃ e, decode w = .error e) ↔
      (w.toNat / 2 ^ 24 = 0 ∨ 5 ≤ w.toNat / 2 ^ 24 ∨
        ((2 ≤ w.toNat / 2 ^ 24 ∧ w.toNat / 2 ^ 24 ≤ 4) ∧ w.toNat % 2 ^ 24 ≠ 0))) ∧
    ∀ (s : State) (e : DecodeError), decode w = .error e →
      writeTransaction .word 0x004#32 w s =
        .next { s with error := ⟨.illegalCommand, false⟩, hostLog := s.hostLog ++ [.done] }

/-- R76: a command with channels in 0..255 assembles to one host write of its word to CMD, and a channel outside
0..255 does not assemble. -/
def Obligations.PackAssemblesExactlyInRange : Prop :=
  ∀ (c : Config) (r g b : Nat),
    ((r ≤ 255 ∧ g ≤ 255 ∧ b ≤ 255) →
      assemble c (.pack r g b) = some
        [.write .word 0x004#32 (BitVec.ofNat 32 (0x01 * 2 ^ 24 + r * 2 ^ 16 + g * 2 ^ 8 + b))]) ∧
    ((255 < r ∨ 255 < g ∨ 255 < b) → assemble c (.pack r g b) = none)

/-- R20, R57, R72: when the next event is the Host's write to CMD of a word that decodes to `i`, the step is
`exec` of `i` at the state with that event taken, and the transaction completes OK. (That pending events and
responses stand in lists of State is the model's choice, log entries 1 and 6.) -/
def Obligations.StepRunsDecodedCommand : Prop :=
  ∀ (s : State) (w : Word) (rest : List Input) (i : Instr),
    s.cfg.legal = true → s.inputs = .write .word 0x004#32 w :: rest → decode w = .ok i →
    i.wellFormed = true →
      ∃ t, exec i { s with inputs := rest } = .next t ∧
        step s = .next { t with hostLog := t.hostLog ++ [.done] }

/-! ### Commands: effects and frames -/

/-- R79: the codec's formula, bit for bit, and its field form. -/
def Obligations.CodecFieldForm : Prop :=
  ∀ r g b : Byte,
    (encode565 r g b).toNat =
      (r.toNat >>> 3 &&& 0x1F) <<< 11 ||| (g.toNat >>> 2 &&& 0x3F) <<< 5 ||| (b.toNat >>> 3 &&& 0x1F) ∧
    (encode565 r g b).extractLsb' 11 5 = r.extractLsb' 3 5 ∧
    (encode565 r g b).extractLsb' 5 6 = g.extractLsb' 2 6 ∧
    (encode565 r g b).extractLsb' 0 5 = b.extractLsb' 3 5

/-- R84: exactly 256 inputs map to each of the 65536 outputs. -/
def Obligations.CodecFibresHave256Inputs : Prop :=
  ∀ p : Packed,
    (Finset.univ.filter fun t : Fin 256 × Fin 256 × Fin 256 =>
      encode565 (BitVec.ofFin t.1) (BitVec.ofFin t.2.1) (BitVec.ofFin t.2.2) = p).card = 256

/-- R80: PACK. Its word is opcode 0x01 with the three channels. While BUSY = 1 it does nothing but report BUSY;
otherwise RESULT becomes the packed pixel, ERROR becomes NONE, and every other piece of state, both memories among
them, is unchanged; RESULT reads it zero-extended. -/
def Obligations.PackWritesResult : Prop :=
  (∀ r g b : Byte, decode (0x01#8 ++ r ++ g ++ b) = .ok (.pack r g b)) ∧
  ∀ (s : State) (r g b : Byte),
    (s.busy = true → exec (.pack r g b) s = .next { s with error := ⟨.busy, false⟩ }) ∧
    (s.busy = false → ∃ t, exec (.pack r g b) s = .next t ∧
      t = { s with
        result := r.extractLsb' 3 5 ++ g.extractLsb' 2 6 ++ b.extractLsb' 3 5
        error := ⟨.noError, false⟩ } ∧
      hostRead .word 0x010#32 t =
        .ok ⟨0#16 ++ r.extractLsb' 3 5 ++ g.extractLsb' 2 6 ++ b.extractLsb' 3 5, 0⟩)

/-- R85, R86, R87, R91: BUILD. While BUSY = 1 it does nothing but report BUSY; with another geometry declared it only
clears FB_VALID and reports INVALID_SOURCE_GEOMETRY. Otherwise every pixel's two bytes are its packed value, low byte
first, or UNKNOWN where the source pixel is UNKNOWN; every padding byte is 00; FB has no byte past FB_LEN; FB_VALID
becomes 1 and ERROR becomes NONE; everything else is unchanged. -/
def Obligations.BuildWritesFramebuffer : Prop :=
  decode 0x02000000#32 = .ok .build ∧
  ∀ s : State,
    (s.busy = true → exec .build s = .next { s with error := ⟨.busy, false⟩ }) ∧
    (s.busy = false → (s.srcWidth.toNat ≠ s.cfg.width ∨ s.srcHeight.toNat ≠ s.cfg.height) →
      exec .build s =
        .next { s with fbValid := false, error := ⟨.invalidSourceGeometry, false⟩ }) ∧
    (s.busy = false → s.srcWidth.toNat = s.cfg.width → s.srcHeight.toNat = s.cfg.height →
      ∃ t, exec .build s = .next t ∧
        t = { s with fb := t.fb, fbValid := true, error := ⟨.noError, false⟩ } ∧
        (∀ y < s.cfg.height, ∀ x < s.cfg.width,
          let packed := (s.src.read (y * s.cfg.width + x)).map fun p =>
            encode565 (p.extractLsb' 16 8) (p.extractLsb' 8 8) (p.extractLsb' 0 8)
          t.fb.read (y * s.cfg.pitch + 2 * x) = packed.map (fun q => q.extractLsb' 0 8) ∧
          t.fb.read (y * s.cfg.pitch + 2 * x + 1) = packed.map (fun q => q.extractLsb' 8 8)) ∧
        (∀ y < s.cfg.height, ∀ k < s.cfg.pad,
          t.fb.read (y * s.cfg.pitch + 2 * s.cfg.width + k) = some 0#8) ∧
        ∀ i, s.cfg.fbLen ≤ i → t.fb.read i = none)

/-- R88, R90: BUILD with another geometry declared raises INVALID_SOURCE_GEOMETRY and clears FB_VALID; FB and all
else keep what they held. A declared width or height of 0, the reset value, always fails. -/
def Obligations.BuildRejectsWrongGeometry : Prop :=
  (∀ s : State, s.busy = false →
    (s.srcWidth.toNat ≠ s.cfg.width ∨ s.srcHeight.toNat ≠ s.cfg.height) →
      exec .build s =
        .next { s with fbValid := false, error := ⟨.invalidSourceGeometry, false⟩ }) ∧
  ∀ s : State, s.cfg.legal = true → (s.srcWidth = 0 ∨ s.srcHeight = 0) →
    (s.srcWidth.toNat ≠ s.cfg.width ∨ s.srcHeight.toNat ≠ s.cfg.height)

/-- R92: when every source pixel is known, a successful BUILD makes exactly the FB_LEN = H * (2*W + PAD) bytes of FB
known, and lists each once, in index order. -/
def Obligations.BuildDefinesWholeFramebuffer : Prop :=
  ∀ (s t : State), s.busy = false → s.srcWidth.toNat = s.cfg.width →
    s.srcHeight.toNat = s.cfg.height → (∀ j < s.cfg.width * s.cfg.height, (s.src.read j).isSome) →
    exec .build s = .next t →
      t.fb.map Prod.fst = List.range (s.cfg.height * (2 * s.cfg.width + s.cfg.pad))

/-- R99, R100: XOR, whatever FB_VALID is. While BUSY = 1 it does nothing but report BUSY. Otherwise every known byte of
FB is XORed with the key byte of its absolute index, an UNKNOWN byte stays UNKNOWN, FB_VALID becomes 0, ERROR becomes
NONE, and everything else is unchanged. -/
def Obligations.XorObfuscatesInPlace : Prop :=
  decode 0x03000000#32 = .ok .xor ∧
  ∀ s : State,
    (s.busy = true → exec .xor s = .next { s with error := ⟨.busy, false⟩ }) ∧
    (s.busy = false → ∃ t, exec .xor s = .next t ∧
      t = { s with fb := t.fb, fbValid := false, error := ⟨.noError, false⟩ } ∧
      ∀ i, t.fb.read i = (s.fb.read i).map fun b => b ^^^ s.cfg.key.getD (i % 4) 0)

/-- R94: the obfuscation function keeps the length and XORs byte `i` with `key[i % 4]`; the block's pass over FB does
the same with KEY, which Push3 sets to E7 F3 E7 FF. -/
def Obligations.ObfuscateByteFormula : Prop :=
  (∀ buf key : List Byte, key.length = 4 →
    (obfuscate buf key).length = buf.length ∧
    ∀ i b k, buf[i]? = some b → key[i % 4]? = some k → (obfuscate buf key)[i]? = some (b ^^^ k)) ∧
  (∀ (c : Config) (fb : Memory Byte) (i : Nat) (b k : Byte), fb.read i = some b →
    c.key[i % 4]? = some k → (obfuscateFb c fb).read i = some (b ^^^ k)) ∧
  Config.push3.key = [0xE7#8, 0xF3#8, 0xE7#8, 0xFF#8]

/-- R96: an output byte depends only on the input byte at its index and on the index modulo 4; over a 4-byte group at
an index that is a multiple of 4, the obfuscator is the 32-bit little-endian XOR with what CFG_KEY reads. -/
def Obligations.ObfuscateWordIsKeyWordXor : Prop :=
  (∀ (buf buf' key : List Byte) (i i' : Nat), buf[i]? = buf'[i']? → i % 4 = i' % 4 →
    (obfuscate buf key)[i]? = (obfuscate buf' key)[i']?) ∧
  ∀ (s : State) (n : Nat) (b0 b1 b2 b3 : Byte) (before after : List Byte), before.length = 4 * n →
    ∃ c0 c1 c2 c3 : Byte,
      (((obfuscate (before ++ b0 :: b1 :: b2 :: b3 :: after) s.cfg.key).drop (4 * n)).take 4
        = [c0, c1, c2, c3]) ∧
      c3 ++ c2 ++ c1 ++ c0 = (b3 ++ b2 ++ b1 ++ b0) ^^^ readReg s .cfgKey

/-- R97: the obfuscation function is its own inverse, and two XOR commands in a row restore FB exactly, with
FB_VALID left 0. -/
def Obligations.XorTwiceRestoresFramebuffer : Prop :=
  (∀ buf key : List Byte, obfuscate (obfuscate buf key) key = buf) ∧
  ∀ s : State, s.busy = false →
    ∃ t u, exec .xor s = .next t ∧ exec .xor t = .next u ∧ u.fb = s.fb ∧ u.fbValid = false

/-- R108: SEND. While BUSY = 1 it does nothing but report BUSY, and without a valid framebuffer it writes ERROR only, so
PHASE and the counters keep describing the last frame. From IDLE, COMPLETE or FAILED with FB_VALID = 1 it is
accepted: it clears FB_VALID, the progress counters and ERROR, enters HEADER, issues no transport write and changes
nothing else. -/
def Obligations.SendStartsFrame : Prop :=
  decode 0x04000000#32 = .ok .send ∧
  ∀ s : State,
    (s.busy = true → exec .send s = .next { s with error := ⟨.busy, false⟩ }) ∧
    (s.busy = false → s.fbValid = false →
      exec .send s = .next { s with error := ⟨.noValidFramebuffer, false⟩ }) ∧
    ((s.phase = .idle ∨ s.phase = .complete ∨ s.phase = .failed) → s.fbValid = true →
      ∃ t, exec .send s = .next t ∧
        t = { s with
          fbValid := false
          bytesSent := 0#32
          chunkIndex := 0#32
          error := ⟨.noError, false⟩
          phase := .header } ∧
        t.busy = true ∧ statusWord t = 0x00000009#32)

/-- R123: any command written while BUSY = 1 does nothing but set ERROR to BUSY. -/
def Obligations.BusyRejectsEveryCommand : Prop :=
  ∀ (i : Instr) (s : State), s.busy = true →
    exec i s = .next { s with error := ⟨.busy, false⟩ }

/-- R124: exactly one CODE is reported, ILLEGAL_COMMAND before BUSY before the command's own check. -/
def Obligations.CommandErrorPriority : Prop :=
  ∀ (s : State) (w : Word),
    (∀ e, decode w = .error e →
      issueCommand w s = .next { s with error := ⟨.illegalCommand, false⟩ }) ∧
    (∀ i, decode w = .ok i → s.busy = true →
      issueCommand w s = .next { s with error := ⟨.busy, false⟩ }) ∧
    (decode w = .ok .send → s.busy = false → s.fbValid = false →
      issueCommand w s = .next { s with error := ⟨.noValidFramebuffer, false⟩ }) ∧
    (decode w = .ok .build → s.busy = false →
      (s.srcWidth.toNat ≠ s.cfg.width ∨ s.srcHeight.toNat ≠ s.cfg.height) →
      issueCommand w s =
        .next { s with fbValid := false, error := ⟨.invalidSourceGeometry, false⟩ })

/-! ### Engine steps and frames -/

/-- R109: the Engine step HEADER. One 16-byte entry, the header unchanged, goes into TXLOG; Ok leads to
HEADER_SENT, Err to FAILED with STAGE 0; nothing else changes. -/
def Obligations.HeaderAnswerStep : Prop :=
  ∀ (s : State) (a : Answer) (rest : List Input),
    s.cfg.legal = true → s.phase = .header → s.inputs = .answer a :: rest →
      s.cfg.header.length = 16 ∧
      step s = .next (match a with
        | .ok => { s with
            inputs := rest
            txlog := s.txlog ++ [⟨s.cfg.epOut, s.cfg.header, .ok⟩]
            phase := .headerSent }
        | .err => { s with
            inputs := rest
            txlog := s.txlog ++ [⟨s.cfg.epOut, s.cfg.header, .err⟩]
            phase := .failed
            error := ⟨.transportWriteFailed, false⟩ })

/-- R110, R57: the Engine step HEADER_SENT obfuscates all of FB in one step, enters SENDING with CHUNK_INDEX 0, and
changes nothing else. -/
def Obligations.ObfuscationPassStep : Prop :=
  ∀ (s : State) (rest : List Input),
    s.cfg.legal = true → s.phase = .headerSent → s.inputs = .enginePass :: rest →
      ∃ t, step s = .next t ∧
        t = { s with inputs := rest, fb := t.fb, chunkIndex := 0#32, phase := .sending } ∧
        ∀ i, t.fb.read i = (s.fb.read i).map fun b => b ^^^ s.cfg.key.getD (i % 4) 0

/-- R111: the Engine step SENDING for chunk `i`. The bytes offered are FB's, in increasing index order, a byte
that is UNKNOWN being any value; Ok counts them and moves to the next chunk or to COMPLETE; Err leaves the counters
and enters FAILED with STAGE 1; FB is read only. (The draw counter is the model's own, log entry 3.) -/
def Obligations.ChunkAnswerStep : Prop :=
  ∀ (s : State) (a : Answer) (rest : List Input),
    s.cfg.legal = true → s.phase = .sending → s.chunkIndex.toNat < s.cfg.nchunks →
    s.inputs = .answer a :: rest →
      let i := s.chunkIndex.toNat
      let first := i * s.cfg.chunkMax
      let last := min (first + s.cfg.chunkMax) s.cfg.fbLen
      ∃ (t : State) (bytes : List Byte), step s = .next t ∧
        bytes.length = last - first ∧
        (∀ k b, k < last - first → s.fb.read (first + k) = some b → bytes[k]? = some b) ∧
        t = (match a with
          | .ok => { s with
              inputs := rest
              draws := t.draws
              txlog := s.txlog ++ [⟨s.cfg.epOut, bytes, .ok⟩]
              bytesSent := s.bytesSent + BitVec.ofNat 32 (last - first)
              chunkIndex := BitVec.ofNat 32 (i + 1)
              phase := if i + 1 = s.cfg.nchunks then .complete else .sending
              error := if i + 1 = s.cfg.nchunks then ⟨.noError, false⟩ else s.error }
          | .err => { s with
              inputs := rest
              draws := t.draws
              txlog := s.txlog ++ [⟨s.cfg.epOut, bytes, .err⟩]
              phase := .failed
              error := ⟨.transportWriteFailed, true⟩ })

/-- R112, R127: PHASE leaves COMPLETE or FAILED only by an accepted SEND, to HEADER, or by a reset, to IDLE, and no
other step adds to TXLOG there: no write is retried and no frame is resumed. An answer or a pass event there changes
nothing but the list of pending events. (That such an event can stand in the list, and is then without effect, is the
model's choice, log entry 9.) -/
def Obligations.TerminalPhasesHaveNoEngineStep : Prop :=
  ∀ s t : State, (s.phase = .complete ∨ s.phase = .failed) → step s = .next t →
    t.txlog = s.txlog ∧
    (t.phase = s.phase ∨
      (s.inputs.head? = some .reset ∧ t.phase = .idle) ∨
      (s.inputs.head? = some (.write .word 0x004#32 0x04000000#32) ∧ s.fbValid = true ∧
        t.phase = .header)) ∧
    (((∃ a, s.inputs.head? = some (.answer a)) ∨ s.inputs.head? = some .enginePass) →
      t = { s with inputs := s.inputs.tail })

/-- R114, R148: with no answer and no other event, a block in HEADER or SENDING does not move, however many steps
pass, and every command leaves it there. (That a step with no pending event is a step of the model at all is the
model's choice, log entry 10.) -/
def Obligations.UnansweredWriteKeepsBlockBusy : Prop :=
  ∀ s : State, s.cfg.legal = true → (s.phase = .header ∨ s.phase = .sending) →
    (s.inputs = [] → ∀ n, core.run n s = .next s) ∧
    ∀ (i : Instr) (t : State), exec i s = .next t → t.phase = s.phase ∧ t.busy = true

/-- R106: the bounds, the length and the bytes of a chunk. -/
def Obligations.ChunkPartition : Prop :=
  ∀ (s : State) (c : Nat), s.cfg.legal = true → c < s.cfg.nchunks →
    let len := min ((c + 1) * s.cfg.chunkMax) s.cfg.fbLen - c * s.cfg.chunkMax
    (chunkBytes s c).length = len ∧
    (c < s.cfg.nchunks - 1 → len = s.cfg.chunkMax) ∧
    (c = s.cfg.nchunks - 1 →
      len = s.cfg.fbLen - (s.cfg.nchunks - 1) * s.cfg.chunkMax ∧
      len = if s.cfg.fbLen % s.cfg.chunkMax = 0 then s.cfg.chunkMax
        else s.cfg.fbLen % s.cfg.chunkMax) ∧
    ∀ k b, k < len → s.fb.read (c * s.cfg.chunkMax + k) = some b → (chunkBytes s c)[k]? = some b

/-- R107: every chunk has 1 to CHUNK_MAX bytes, there is at least one, the chunks in order give the payload exactly,
one chunk holds a payload of at most CHUNK_MAX bytes, and Push3 has 20 chunks of 16384 bytes. -/
def Obligations.ChunksCoverPayload : Prop :=
  (∀ s : State, s.cfg.legal = true →
    1 ≤ s.cfg.nchunks ∧
    (∀ c < s.cfg.nchunks, 1 ≤ chunkLen s.cfg c ∧ chunkLen s.cfg c ≤ s.cfg.chunkMax) ∧
    (∀ payload : List Byte, payload.length = s.cfg.fbLen →
      (∀ i < s.cfg.fbLen, s.fb.read i = payload[i]?) →
      (List.range s.cfg.nchunks).flatMap (chunkBytes s) = payload) ∧
    (s.cfg.fbLen ≤ s.cfg.chunkMax → s.cfg.nchunks = 1 ∧ chunkLen s.cfg 0 = s.cfg.fbLen)) ∧
  Config.push3.nchunks = 20 ∧ ∀ c < 20, chunkLen Config.push3 c = 16384

/-- R101, R105, R107, R116, R117: from HEADER, when the Transport answers Ok to every write, the block ends in
COMPLETE. It has sent the header and then NCHUNKS chunks, nothing else, all to EP_OUT; the chunks in order are a
payload of FB_LEN bytes in which every known byte of the framebuffer stands XORed with the key byte of its absolute
index; every chunk but the last is full. -/
def Obligations.WholeFrameIsDelivered : Prop :=
  ∀ (s : State) (rest : List Input), s.Inv → s.phase = .header →
    s.inputs = .answer .ok :: .enginePass ::
      (List.replicate s.cfg.nchunks (.answer .ok) ++ rest) →
    ∃ (t : State) (chunks : List (List Byte)),
      core.run (s.cfg.nchunks + 2) s = .next t ∧
      t.phase = .complete ∧ t.error = ⟨.noError, false⟩ ∧ t.inputs = rest ∧
      t.bytesSent.toNat = s.cfg.fbLen ∧ t.chunkIndex.toNat = s.cfg.nchunks ∧
      t.txlog = s.txlog ++ ⟨s.cfg.epOut, s.cfg.header, .ok⟩ ::
        chunks.map (fun bytes => ⟨s.cfg.epOut, bytes, .ok⟩) ∧
      chunks.length = s.cfg.nchunks ∧
      (∀ c bytes, chunks[c]? = some bytes → bytes.length = chunkLen s.cfg c) ∧
      chunks.flatten.length = s.cfg.fbLen ∧
      ∀ i b, s.fb.read i = some b →
        chunks.flatten[i]? = some (b ^^^ s.cfg.key.getD (i % 4) 0)

/-- R111, R112, R115: from HEADER, when the writes of the header and of chunks 0 .. j-1 answer Ok and the write of
chunk j answers Err, the block ends in FAILED with CODE 2, STAGE 1, CHUNK_INDEX j and BYTES_SENT j*CHUNK_MAX, and it
has issued the header and j+1 chunk writes and no further one. The chunk writes offered the obfuscated framebuffer's
chunks, in order. -/
def Obligations.ChunkFailureAbortsFrame : Prop :=
  ∀ (s : State) (j : Nat) (rest : List Input), s.Inv → s.phase = .header → j < s.cfg.nchunks →
    s.inputs = .answer .ok :: .enginePass ::
      (List.replicate j (.answer .ok) ++ .answer .err :: rest) →
    ∃ (t : State) (chunks : List TxEntry) (lastWrite : TxEntry),
      core.run (j + 3) s = .next t ∧ t.phase = .failed ∧
      t.error = ⟨.transportWriteFailed, true⟩ ∧ t.chunkIndex.toNat = j ∧
      t.bytesSent.toNat = j * s.cfg.chunkMax ∧ t.inputs = rest ∧
      t.txlog = s.txlog ++ headerEntry s.cfg .ok :: (chunks ++ [lastWrite]) ∧
      deliveredChunks s.cfg (obfuscateFb s.cfg s.fb) j chunks ∧
      isChunkEntry s.cfg (obfuscateFb s.cfg s.fb) j .err lastWrite

/-! ### Host port -/

/-- R18 to R31, R53: what ID, CMD, STATUS, ERROR, RESULT, SRC_WIDTH, SRC_HEIGHT, BYTES_SENT and CHUNK_INDEX read, BUSY or
not, with the encodings of PHASE and of CODE written out; and a write to ID, STATUS, ERROR, RESULT, BYTES_SENT or
CHUNK_INDEX completes OK with no effect. -/
def Obligations.RegistersReadTheirFields : Prop :=
  ∀ s : State,
    hostRead .word 0x000#32 s = .ok ⟨0x50334645#32, 0⟩ ∧
    hostRead .word 0x004#32 s = .ok ⟨0#32, 0⟩ ∧
    (∃ w, hostRead .word 0x008#32 s = .ok ⟨w, 0⟩ ∧
      w.extractLsb' 0 3 = (match s.phase with
        | .idle => 0#3
        | .header => 1#3
        | .headerSent => 2#3
        | .sending => 3#3
        | .complete => 4#3
        | .failed => 5#3) ∧
      (w.extractLsb' 3 1 = 1#1 ↔
        (s.phase = .header ∨ s.phase = .headerSent ∨ s.phase = .sending)) ∧
      (w.extractLsb' 4 1 = 1#1 ↔ s.fbValid = true) ∧ w.extractLsb' 5 27 = 0#27) ∧
    (∃ w, hostRead .word 0x00C#32 s = .ok ⟨w, 0⟩ ∧
      w.extractLsb' 0 4 = (match s.error.code with
        | .noError => 0#4
        | .invalidSourceGeometry => 1#4
        | .transportWriteFailed => 2#4
        | .illegalCommand => 3#4
        | .busy => 4#4
        | .noValidFramebuffer => 5#4) ∧
      w.extractLsb' 4 4 = 0#4 ∧
      (w.extractLsb' 8 1 = 1#1 ↔ s.error.stage = true) ∧ w.extractLsb' 9 23 = 0#23) ∧
    hostRead .word 0x010#32 s = .ok ⟨0#16 ++ s.result, 0⟩ ∧
    hostRead .word 0x014#32 s = .ok ⟨0#16 ++ s.srcWidth, 0⟩ ∧
    hostRead .word 0x018#32 s = .ok ⟨0#16 ++ s.srcHeight, 0⟩ ∧
    hostRead .word 0x01C#32 s = .ok ⟨s.bytesSent, 0⟩ ∧
    hostRead .word 0x020#32 s = .ok ⟨s.chunkIndex, 0⟩ ∧
    ∀ addr ∈ ([0x000#32, 0x008#32, 0x00C#32, 0x010#32, 0x01C#32, 0x020#32] : List Word), ∀ v,
      hostWrite .word addr v s = .next s ∧
      writeTransaction .word addr v s = .next { s with hostLog := s.hostLog ++ [.done] }

/-- R32: the configuration registers on a legal configuration whose CHUNK_MAX has a 32-bit value (for a larger one
R32 gives no result; log entry 5): each reads its value, and a write to it changes nothing. -/
def Obligations.ConfigurationRegistersRead : Prop :=
  ∀ s : State, s.cfg.legal = true → s.cfg.chunkMax < 2 ^ 32 →
    (∀ p ∈ ([(0x040#32, s.cfg.width), (0x044#32, s.cfg.height), (0x048#32, s.cfg.pad),
        (0x04C#32, s.cfg.pitch), (0x050#32, s.cfg.fbLen), (0x054#32, s.cfg.chunkMax),
        (0x058#32, s.cfg.nchunks), (0x060#32, s.cfg.epOut.toNat)] : List (Word × Nat)),
      (∃ w : Word, hostRead .word p.1 s = .ok ⟨w, 0⟩ ∧ w.toNat = p.2) ∧
      ∀ v, hostWrite .word p.1 v s = .next s) ∧
    (∃ w : Word, hostRead .word 0x05C#32 s = .ok ⟨w, 0⟩ ∧
      s.cfg.key = [w.extractLsb' 0 8, w.extractLsb' 8 8, w.extractLsb' 16 8, w.extractLsb' 24 8]) ∧
    (∃ w0 w1 w2 w3 : Word,
      hostRead .word 0x070#32 s = .ok ⟨w0, 0⟩ ∧ hostRead .word 0x074#32 s = .ok ⟨w1, 0⟩ ∧
      hostRead .word 0x078#32 s = .ok ⟨w2, 0⟩ ∧ hostRead .word 0x07C#32 s = .ok ⟨w3, 0⟩ ∧
      s.cfg.header = [w0, w1, w2, w3].flatMap fun w =>
        [w.extractLsb' 0 8, w.extractLsb' 8 8, w.extractLsb' 16 8, w.extractLsb' 24 8]) ∧
    ∀ a ∈ ([0x05C#32, 0x070#32, 0x074#32, 0x078#32, 0x07C#32] : List Word), ∀ v,
      hostWrite .word a v s = .next s

/-- R32: what the configuration registers of the Push3 instance read; CFG_EP is left open. -/
def Obligations.PushConfigurationRegisterValues : Prop :=
  ∀ s : State, s.cfg = Config.push3 →
    ∀ p ∈ ([(0x040#32, 0x000003C0#32), (0x044#32, 0x000000A0#32), (0x048#32, 0x00000080#32),
        (0x04C#32, 0x00000800#32), (0x050#32, 0x00050000#32), (0x054#32, 0x00004000#32),
        (0x058#32, 0x00000014#32), (0x05C#32, 0xFFE7F3E7#32), (0x070#32, 0x88AACCFF#32),
        (0x074#32, 0x00000000#32), (0x078#32, 0x00000000#32), (0x07C#32, 0x00000000#32)] :
        List (Word × Word)),
      hostRead .word p.1 s = .ok ⟨p.2, 0⟩

/-- R49: an access that is not 32 bits wide, or not at a multiple of 4, gets BusError and has no effect; a read of
the last FB word returns 0 in the byte lanes past FB_LEN, with the FB bytes present in the others. -/
def Obligations.AccessWidthAndAlignment : Prop :=
  (∀ (s : State) (width : AccessWidth) (addr v : Word), (width ≠ .word ∨ addr.toNat % 4 ≠ 0) →
    readTransaction width addr s = { s with hostLog := s.hostLog ++ [.busError] } ∧
    writeTransaction width addr v s = .next { s with hostLog := s.hostLog ++ [.busError] }) ∧
  ∀ s : State, s.cfg.legal = true → s.busy = false → s.cfg.fbLen % 4 ≠ 0 →
    ∃ d : ReadData,
      hostRead .word (BitVec.ofNat 32 (0x00200000 + s.cfg.fbLen - s.cfg.fbLen % 4)) s = .ok d ∧
      (∀ k < s.cfg.fbLen % 4, ∀ b, s.fb.read (s.cfg.fbLen - s.cfg.fbLen % 4 + k) = some b →
        d.value.extractLsb' (8 * k) 8 = b) ∧
      ∀ k < 4, s.cfg.fbLen % 4 ≤ k → d.value.extractLsb' (8 * k) 8 = 0#8

/-- R48, R50: a 32-bit access at a multiple of 4 that is no listed register offset, no SRC entry and no FB word gets
BusError and changes no state. (R50's "at or past the last word of rule R49" is read so that a last word that holds FB
bytes stays readable, log entry 15.) -/
def Obligations.UnmappedOffsetsGiveBusError : Prop :=
  ∀ (s : State) (addr v : Word), addr.toNat % 4 = 0 →
    addr.toNat ∉ [0x000, 0x004, 0x008, 0x00C, 0x010, 0x014, 0x018, 0x01C, 0x020, 0x040, 0x044, 0x048,
      0x04C, 0x050, 0x054, 0x058, 0x05C, 0x060, 0x070, 0x074, 0x078, 0x07C] →
    ¬ (0x00100000 ≤ addr.toNat ∧ addr.toNat < 0x00100000 + 4 * (s.cfg.width * s.cfg.height)) →
    ¬ (0x00200000 ≤ addr.toNat ∧ addr.toNat < 0x00200000 + s.cfg.fbLen) →
      readTransaction .word addr s = { s with hostLog := s.hostLog ++ [.busError] } ∧
      writeTransaction .word addr v s = .next { s with hostLog := s.hostLog ++ [.busError] }

/-- R54: a host write anywhere in the FB window gets BusError and leaves FB and all else unchanged. -/
def Obligations.FramebufferWindowIsReadOnly : Prop :=
  ∀ (s : State) (width : AccessWidth) (addr v : Word), s.cfg.legal = true →
    0x00200000 ≤ addr.toNat → addr.toNat < 0x00200000 + s.cfg.fbLen →
      writeTransaction width addr v s = .next { s with hostLog := s.hostLog ++ [.busError] }

/-- R51, R53: a write to SRC entry `j`, BUSY or not, stores `v[23:0]` and ignores `v[31:24]`; it reads back with
bits [31:24] zero; every other entry and all else is unchanged. An UNKNOWN entry reads some value with bits [31:24]
zero. -/
def Obligations.SourceEntryWriteAndRead : Prop :=
  ∀ (s : State) (j : Nat) (v : Word), s.cfg.legal = true → j < s.cfg.width * s.cfg.height →
    let addr := BitVec.ofNat 32 (0x00100000 + 4 * j)
    (∃ t, hostWrite .word addr v s = .next t ∧ t = { s with src := t.src } ∧
      hostRead .word addr t = .ok ⟨0#8 ++ v.extractLsb' 0 24, 0⟩ ∧
      t.src.read j = some (v.extractLsb' 0 24) ∧ ∀ k, k ≠ j → t.src.read k = s.src.read k) ∧
    (∀ p, s.src.read j = some p → hostRead .word addr s = .ok ⟨0#8 ++ p, 0⟩) ∧
    (s.src.read j = none → ∃ d, hostRead .word addr s = .ok d ∧ d.value.extractLsb' 24 8 = 0#8)

/-- R46, R49, R52: while BUSY = 0 a read of the FB word at index `i` has `FB[i+k]` in bits [8k+7:8k], and 0 in the
lanes past FB_LEN. -/
def Obligations.FramebufferWordIsLittleEndian : Prop :=
  ∀ (s : State) (i : Nat), s.cfg.legal = true → s.busy = false → i % 4 = 0 → i < s.cfg.fbLen →
    ∃ d : ReadData, hostRead .word (BitVec.ofNat 32 (0x00200000 + i)) s = .ok d ∧
      ∀ k < 4,
        (∀ b, i + k < s.cfg.fbLen → s.fb.read (i + k) = some b →
          d.value.extractLsb' (8 * k) 8 = b) ∧
        (s.cfg.fbLen ≤ i + k → d.value.extractLsb' (8 * k) 8 = 0#8)

/-- R55, R146: while BUSY = 1 a host read tells nothing of FB: two states that differ in FB only give every read the
same outcome. (R55 fixes nothing of the value of an FB read, and does not promise that it is independent of FB: that
a draw depends on the model's draw counter alone is the model's choice, log entry 3.) -/
def Obligations.BusyReadsRevealNothingOfFramebuffer : Prop :=
  ∀ (s : State) (fb' : Memory Byte) (width : AccessWidth) (addr : Word), s.busy = true →
    hostRead width addr { s with fb := fb' } = hostRead width addr s

/-- R28, R29: a write to SRC_WIDTH or SRC_HEIGHT stores `v[15:0]` and ignores `v[31:16]`, BUSY or not, and changes
nothing else; a read returns the 16 bits zero-extended. -/
def Obligations.GeometryRegistersHold16Bits : Prop :=
  ∀ (s : State) (v : Word),
    hostWrite .word 0x014#32 v s = .next { s with srcWidth := v.extractLsb' 0 16 } ∧
    hostWrite .word 0x018#32 v s = .next { s with srcHeight := v.extractLsb' 0 16 } ∧
    hostRead .word 0x014#32 { s with srcWidth := v.extractLsb' 0 16 } =
      .ok ⟨0#16 ++ v.extractLsb' 0 16, 0⟩ ∧
    hostRead .word 0x018#32 { s with srcHeight := v.extractLsb' 0 16 } =
      .ok ⟨0#16 ++ v.extractLsb' 0 16, 0⟩

/-- R52, R58: a host read, of any width at any offset, changes no state of the block: only its event is taken, its
response logged, and the model's draw counter may move. -/
def Obligations.HostReadsHaveNoSideEffect : Prop :=
  ∀ (s : State) (width : AccessWidth) (addr : Word) (rest : List Input),
    s.cfg.legal = true → s.inputs = .read width addr :: rest →
      ∃ (t : State) (r : Response), step s = .next t ∧
        t = { s with inputs := rest, hostLog := s.hostLog ++ [r], draws := t.draws }

/-- R45, R77, R118: every host transaction completes in its own step with exactly one response, BusError or OK, and the
block goes on. A turn of WAITIDLE is one read of STATUS: with BUSY clear the loop is over; with BUSY set it goes on,
behind at most as many events of the other agents as its schedule says and before the Host's own next event.
CHECKERR is one read of ERROR and the comparison of e[3:0] with the expected code. (A BusError is a response in the
model's log and not the end of a run: log entries 6 and 7. The schedule of the loop, and the note of the comparison,
are the model's: log entry 18.) -/
def Obligations.HostTransactionsComplete : Prop :=
  (∀ (s : State) (e : Input) (rest : List Input), s.cfg.legal = true → s.inputs = e :: rest →
    ((∃ width addr, e = .read width addr) ∨ ∃ width addr v, e = .write width addr v) →
      ∃ (t : State) (r : Response), step s = .next t ∧ t.hostLog = s.hostLog ++ [r] ∧
        t.inputs = rest ∧
        (r = .busError → t = { s with inputs := rest, hostLog := s.hostLog ++ [.busError] })) ∧
  (∀ (s : State) (gaps : List Nat) (rest : List Input), s.cfg.legal = true →
    s.inputs = .waitIdle gaps :: rest →
      ∃ (t : State) (w : Word), hostRead .word 0x008#32 s = .ok ⟨w, 0⟩ ∧ step s = .next t ∧
        t = { s with inputs := t.inputs, hostLog := s.hostLog ++ [.data w] } ∧
        (w.extractLsb' 3 1 = 0#1 → t.inputs = rest) ∧
        (w.extractLsb' 3 1 = 1#1 → ∃ before later, rest = before ++ later ∧
          t.inputs = before ++ .waitIdle gaps.tail :: later ∧
          (∀ e ∈ before, e.fromHost = false) ∧ before.length ≤ gaps.headD 1 ∧
          (before.length = gaps.headD 1 ∨ ∀ e, later.head? = some e → e.fromHost = true))) ∧
  ∀ (s : State) (code : Nat) (rest : List Input), s.cfg.legal = true →
    s.inputs = .checkErr code :: rest →
      ∃ w : Word, hostRead .word 0x00C#32 s = .ok ⟨w, 0⟩ ∧
        step s = .next { s with
          inputs := rest
          hostLog := s.hostLog ++ [.data w]
          checks := s.checks ++ [decide ((w.extractLsb' 0 4).toNat = code)] }

/-! ### Reset -/

/-- R40, R138: after a reset in any phase PHASE is IDLE, BUSY, FB_VALID, ERROR, RESULT, SRC_WIDTH, SRC_HEIGHT,
BYTES_SENT and CHUNK_INDEX are 0, SRC and FB are UNKNOWN everywhere, no write is outstanding, and the parameters, which
are all that the hardwired registers read, stay. -/
def Obligations.ResetSetsEveryPieceOfState : Prop :=
  ∀ (s : State) (rest : List Input), s.cfg.legal = true → s.inputs = .reset :: rest →
    ∃ t, step s = .next t ∧ t.phase = .idle ∧ t.busy = false ∧ t.fbValid = false ∧
      t.error = ⟨.noError, false⟩ ∧ t.result = 0#16 ∧ t.srcWidth = 0#16 ∧ t.srcHeight = 0#16 ∧
      t.bytesSent = 0#32 ∧ t.chunkIndex = 0#32 ∧ (∀ j, t.src.read j = none) ∧
      (∀ i, t.fb.read i = none) ∧ t.cfg = s.cfg ∧ outstandingWrite t = none

/-- R40: the fields of the model's start state. (That this state also stands for power-up is the model's choice, log
entry 8.) -/
def Obligations.ResetStateValues : Prop :=
  State.reset.phase = .idle ∧ State.reset.fbValid = false ∧
    State.reset.error = ⟨.noError, false⟩ ∧ State.reset.result = 0#16 ∧
    State.reset.srcWidth = 0#16 ∧ State.reset.srcHeight = 0#16 ∧
    State.reset.bytesSent = 0#32 ∧ State.reset.chunkIndex = 0#32 ∧
    (∀ j, State.reset.src.read j = none) ∧ (∀ i, State.reset.fb.read i = none) ∧
    outstandingWrite State.reset = none

/-- R42, R139, R141: a reset keeps every TXLOG entry. In HEADER or SENDING it appends one Abandoned entry with the
first n bytes of the outstanding write, n at most its length; in any other phase it appends nothing. A later answer
to that write is ignored, and no write is outstanding. (That n may be the whole length reads R139's `0..len` with both
ends, against R13's half-open range: the model's reading, log entry 4.) -/
def Obligations.ResetAbandonsOutstandingWrite : Prop :=
  ∀ (s : State) (rest : List Input), s.cfg.legal = true → s.inputs = .reset :: rest →
    ∃ t, step s = .next t ∧
      (s.phase = .header → ∃ n ≤ s.cfg.header.length,
        t.txlog = s.txlog ++ [⟨s.cfg.epOut, s.cfg.header.take n, .abandoned⟩]) ∧
      (s.phase = .sending → ∃ n ≤ chunkLen s.cfg s.chunkIndex.toNat,
        t.txlog = s.txlog ++
          [⟨s.cfg.epOut, (chunkBytes s s.chunkIndex.toNat).take n, .abandoned⟩]) ∧
      (s.phase ≠ .header → s.phase ≠ .sending → t.txlog = s.txlog) ∧
      t.phase = .idle ∧ outstandingWrite t = none ∧ ∀ a, transportAnswer a t = t

/-- R140: after a reset the Engine has no step, whatever the Transport answers; STATUS and ERROR read 0 and ID reads
"P3FE". (That an event with no Engine step of its own leaves the block as it is, is the model's choice, log entry 9.) -/
def Obligations.BlockIsQuietAfterReset : Prop :=
  ∀ s : State,
    enginePass (applyReset s) = applyReset s ∧
    (∀ a, transportAnswer a (applyReset s) = applyReset s) ∧
    hostRead .word 0x008#32 (applyReset s) = .ok ⟨0#32, 0⟩ ∧
    hostRead .word 0x00C#32 (applyReset s) = .ok ⟨0#32, 0⟩ ∧
    hostRead .word 0x000#32 (applyReset s) = .ok ⟨0x50334645#32, 0⟩

/-! ### Parameters -/

/-- R9: the derived parameters, and their values for Push3. -/
def Obligations.DerivedParameters : Prop :=
  (∀ c : Config, c.pitch = 2 * c.width + c.pad ∧ c.fbLen = c.height * c.pitch ∧
    (1 ≤ c.chunkMax →
      c.nchunks * c.chunkMax < c.fbLen + c.chunkMax ∧ c.fbLen ≤ c.nchunks * c.chunkMax) ∧
    (c.legal = true → c.header.length = 16 ∧ c.key.length = 4)) ∧
  Config.push3.pitch = 2048 ∧ Config.push3.fbLen = 327680 ∧ Config.push3.nchunks = 20

/-- R10: the legal domain, what follows from it, the refusal of every configuration outside it, and that Push3 is
inside. -/
def Obligations.LegalConfigurationDomain : Prop :=
  (∀ c : Config, c.legal = true ↔
    (1 ≤ c.width ∧ 1 ≤ c.height ∧ 1 ≤ c.chunkMax ∧ c.width ≤ 65535 ∧ c.height ≤ 65535 ∧
      4 * c.width * c.height ≤ 0x100000 ∧ c.fbLen ≤ 0x100000 ∧ c.header.length = 16 ∧
      c.key.length = 4)) ∧
  (∀ c : Config, c.legal = true → 2 ≤ c.fbLen ∧ 1 ≤ c.nchunks) ∧
  (∀ s : State, s.cfg.legal = false → step s = .refused .configOutsideDomain) ∧
  Config.push3.legal = true ∧ 4 * Config.push3.width * Config.push3.height = 614400

/-! ### Whole-machine rules -/

/-- R34 with the canonical form of the memories (the model's choice, log entry 13), and with the FAILED case for either
STAGE (log entry 14): every step of every state that meets the invariant gives a state that meets it. -/
def Obligations.StepKeepsStateInvariant : Prop :=
  ∀ s t : State, s.Inv → step s = .next t → t.Inv

/-- The invariants hold after reset, whatever was built or sent before. -/
def Obligations.ResetMeetsStateInvariant : Prop :=
  State.reset.Inv ∧ ∀ m : Memory Byte, State.reset.FbProvenance m ∧ State.reset.FrameLogged m

/-- R65, R106, R115, R116: every step keeps what TXLOG says of the frame in progress, `sent` being its payload, which is
FB in SENDING: the header first, then the chunks in order, each with its length and with the known bytes of its part of
the payload, each after the one before it answered Ok; COMPLETE only after all of them; nothing after an Err. -/
def Obligations.StepKeepsFrameLog : Prop :=
  ∀ (s t : State) (sent : Memory Byte), s.Inv → s.FrameLogged sent → step s = .next t →
    t.FrameLogged (if t.phase = .sending then t.fb else sent)

/-- R105, R144, R145: every step keeps where FB's contents come from, `built` being what the last completed BUILD wrote:
while FB_VALID = 1, and from an accepted SEND to its pass, FB is `built` unmodified; while chunks go out it is `built`
obfuscated once. A SEND is accepted only with FB = `built`, which it leaves; and every step from SENDING but a reset
leaves FB the obfuscated `built`. So no framebuffer is obfuscated twice, or sent without the pass. -/
def Obligations.StepKeepsFramebufferProvenance : Prop :=
  ∀ (s t : State) (built : Memory Byte), s.Inv → s.FbProvenance built → step s = .next t →
    t.FbProvenance (s.lastBuilt built) ∧
    (s.busy = false → t.phase = .header → s.fbValid = true ∧ s.fb = built ∧ t.fb = built) ∧
    (s.phase = .sending → s.inputs.head? ≠ some .reset → t.fb = obfuscateFb s.cfg built)

/-- R33, R117: in one step the pair (phase, i) changes only as R33 allows, to IDLE only by a reset, and i stays at most
NCHUNKS. -/
def Obligations.PhaseChangesOnlyAsAllowed : Prop :=
  ∀ s t : State, s.Inv → step s = .next t →
    phaseStep s t ∧ (s.phase ≠ .idle → t.phase = .idle → s.inputs.head? = some .reset) ∧
      t.chunkIndex.toNat ≤ t.cfg.nchunks

/-- R42, R65, R141: TXLOG only grows, by at most one entry a step, and every new entry carries EP_OUT (R104). -/
def Obligations.TransportLogIsAppendOnly : Prop :=
  ∀ s t : State, step s = .next t →
    t.txlog = s.txlog ∨ ∃ bytes r, t.txlog = s.txlog ++ [⟨s.cfg.epOut, bytes, r⟩]

/-- R24: FB_VALID becomes 1 only by a BUILD that completes, and becomes 0 only by a reset, a BUILD that fails, an XOR
or an accepted SEND. -/
def Obligations.FbValidChangesOnlyAsAllowed : Prop :=
  ∀ s t : State, step s = .next t →
    (s.fbValid = false → t.fbValid = true →
      s.inputs.head? = some (.write .word 0x004#32 0x02000000#32) ∧ s.busy = false ∧
        s.srcWidth.toNat = s.cfg.width ∧ s.srcHeight.toNat = s.cfg.height) ∧
    (s.fbValid = true → t.fbValid = false →
      s.inputs.head? = some .reset ∨
      (s.inputs.head? = some (.write .word 0x004#32 0x02000000#32) ∧ s.busy = false ∧
        (s.srcWidth.toNat ≠ s.cfg.width ∨ s.srcHeight.toNat ≠ s.cfg.height)) ∨
      (s.inputs.head? = some (.write .word 0x004#32 0x03000000#32) ∧ s.busy = false) ∨
      (s.inputs.head? = some (.write .word 0x004#32 0x04000000#32) ∧ s.busy = false))

/-- R37, R54, R147: FB changes only by a reset, by a BUILD or XOR command, or by the SEND pass in HEADER_SENT. -/
def Obligations.FramebufferChangesOnlyAsAllowed : Prop :=
  ∀ s t : State, step s = .next t → t.fb ≠ s.fb →
    s.inputs.head? = some .reset ∨
    ((s.inputs.head? = some (.write .word 0x004#32 0x02000000#32) ∨
      s.inputs.head? = some (.write .word 0x004#32 0x03000000#32)) ∧ s.busy = false) ∨
    (s.phase = .headerSent ∧ (s.inputs.head? = none ∨ s.inputs.head? = some .enginePass))

/-- R27, R36, R28, R29, R8: RESULT changes only by a PACK or a reset; SRC and the declared geometry only by a host
write to their own window or offset, or a reset; the parameters never. -/
def Obligations.OtherStateChangesOnlyAsAllowed : Prop :=
  ∀ s t : State, step s = .next t →
    t.cfg = s.cfg ∧
    (t.result ≠ s.result →
      s.inputs.head? = some .reset ∨
      ∃ w r g b, s.inputs.head? = some (.write .word 0x004#32 w) ∧ decode w = .ok (.pack r g b)) ∧
    (t.src ≠ s.src →
      s.inputs.head? = some .reset ∨
      ∃ a v, s.inputs.head? = some (.write .word a v) ∧ 0x00100000 ≤ a.toNat ∧
        a.toNat < 0x00100000 + 4 * (s.cfg.width * s.cfg.height)) ∧
    (t.srcWidth ≠ s.srcWidth →
      s.inputs.head? = some .reset ∨ ∃ v, s.inputs.head? = some (.write .word 0x014#32 v)) ∧
    (t.srcHeight ≠ s.srcHeight →
      s.inputs.head? = some .reset ∨ ∃ v, s.inputs.head? = some (.write .word 0x018#32 v))

/-- R122: ERROR changes only by a CMD write, by the Engine reaching COMPLETE or FAILED from a frame in flight, or by a
reset. -/
def Obligations.ErrorChangesOnlyAsAllowed : Prop :=
  ∀ s t : State, step s = .next t → t.error ≠ s.error →
    s.inputs.head? = some .reset ∨
    (∃ w, s.inputs.head? = some (.write .word 0x004#32 w)) ∨
    (s.busy = true ∧ (∃ a, s.inputs.head? = some (.answer a)) ∧
      ((t.phase = .complete ∧ t.error = ⟨.noError, false⟩) ∨
        (t.phase = .failed ∧ t.error.code = .transportWriteFailed ∧
          (t.error.stage = true ↔ s.phase = .sending))))

/-- R147: a host write to SRC, SRC_WIDTH or SRC_HEIGHT touches neither FB, nor FB_VALID, nor a frame in flight. -/
def Obligations.SourceLoadingNeverDisturbsFrame : Prop :=
  ∀ (s : State) (addr v : Word) (rest : List Input), s.cfg.legal = true →
    (addr = 0x014#32 ∨ addr = 0x018#32 ∨
      (addr.toNat % 4 = 0 ∧ 0x00100000 ≤ addr.toNat ∧
        addr.toNat < 0x00100000 + 4 * (s.cfg.width * s.cfg.height))) →
    s.inputs = .write .word addr v :: rest →
      ∃ t, step s = .next t ∧
        t = { s with
          src := t.src
          srcWidth := t.srcWidth
          srcHeight := t.srcHeight
          inputs := rest
          hostLog := s.hostLog ++ [.done] }

/-- R45, R118, R126: on a legal configuration every step gives a next state: no event, no command and no bus error
stops the block. (The model's choice where no event is pending, log entry 10, and for bus errors, log entry 7.) -/
def Obligations.LegalBlockNeverStops : Prop :=
  ∀ s : State, s.cfg.legal = true → ∃ t, step s = .next t

/-- R58: writing SRC_WIDTH, SRC_HEIGHT or an SRC entry twice with one value, or issuing PACK twice with one word, or
BUILD twice, leaves the same state as once; a second SEND at once is rejected with BUSY. -/
def Obligations.RepeatedWrites : Prop :=
  (∀ (s t u : State) (addr v : Word),
    (addr = 0x014#32 ∨ addr = 0x018#32 ∨ 0x00100000 ≤ addr.toNat) →
    hostWrite .word addr v s = .next t → hostWrite .word addr v t = .next u → u = t) ∧
  (∀ (s t u : State) (r g b : Byte),
    exec (.pack r g b) s = .next t → exec (.pack r g b) t = .next u → u = t) ∧
  (∀ s t u : State, exec .build s = .next t → exec .build t = .next u → u = t) ∧
  ∀ s t : State, s.busy = false → s.fbValid = true → exec .send s = .next t →
    exec .send t = .next { t with error := ⟨.busy, false⟩ }

/-- R113, R123, R147: while BUSY = 1 no host transaction touches the frame in flight: PHASE, CHUNK_INDEX, BYTES_SENT,
FB, FB_VALID and TXLOG stay as they are. -/
def Obligations.HostCannotDisturbFrameInFlight : Prop :=
  ∀ s t : State, s.busy = true → step s = .next t →
    (∃ e, s.inputs.head? = some e ∧ e.fromHost = true) →
    t.phase = s.phase ∧ t.chunkIndex = s.chunkIndex ∧ t.bytesSent = s.bytesSent ∧ t.fb = s.fb ∧
      t.fbValid = s.fbValid ∧ t.txlog = s.txlog

/-- R114, R150, D39: each event that the Engine waits for brings the frame in flight nearer its end, and no other
event but a reset takes it further away: the number of Engine steps still needed strictly falls, or stays. (Events that the
Engine does not wait for leave it alone by the model's choice, log entry 9.) -/
def Obligations.EngineEventsEndFrame : Prop :=
  ∀ (s t : State) (e : Input), s.Inv → s.busy = true → s.inputs.head? = some e →
    step s = .next t →
      (engineEvent s e → t.stepsToGo < s.stepsToGo ∧ (t.stepsToGo = 0 ↔ t.frameEnded)) ∧
      (¬ engineEvent s e → e ≠ .reset → t.stepsToGo = s.stepsToGo ∧ t.phase = s.phase)
end

