-- ==== Sys2Proof/Laws/State.lean ====
section
/-! SUPPORT. One lemma per field per named update of State: what each update leaves of each field. -/

namespace Sys2Proof.Machine

@[simp] theorem raiseError_cfg (code : ErrorCode) (s : State) : (raiseError code s).cfg = s.cfg := rfl
@[simp] theorem raiseError_phase (code : ErrorCode) (s : State) : (raiseError code s).phase = s.phase := rfl
@[simp] theorem raiseError_fbValid (code : ErrorCode) (s : State) : (raiseError code s).fbValid = s.fbValid := rfl
@[simp] theorem raiseError_error (code : ErrorCode) (s : State) : (raiseError code s).error = ⟨code, false⟩ := rfl
@[simp] theorem raiseError_result (code : ErrorCode) (s : State) : (raiseError code s).result = s.result := rfl
@[simp] theorem raiseError_srcWidth (code : ErrorCode) (s : State) : (raiseError code s).srcWidth = s.srcWidth := rfl
@[simp] theorem raiseError_srcHeight (code : ErrorCode) (s : State) : (raiseError code s).srcHeight = s.srcHeight := rfl
@[simp] theorem raiseError_bytesSent (code : ErrorCode) (s : State) : (raiseError code s).bytesSent = s.bytesSent := rfl
@[simp] theorem raiseError_chunkIndex (code : ErrorCode) (s : State) : (raiseError code s).chunkIndex = s.chunkIndex := rfl
@[simp] theorem raiseError_src (code : ErrorCode) (s : State) : (raiseError code s).src = s.src := rfl
@[simp] theorem raiseError_fb (code : ErrorCode) (s : State) : (raiseError code s).fb = s.fb := rfl
@[simp] theorem raiseError_txlog (code : ErrorCode) (s : State) : (raiseError code s).txlog = s.txlog := rfl
@[simp] theorem raiseError_inputs (code : ErrorCode) (s : State) : (raiseError code s).inputs = s.inputs := rfl
@[simp] theorem raiseError_hostLog (code : ErrorCode) (s : State) : (raiseError code s).hostLog = s.hostLog := rfl
@[simp] theorem raiseError_checks (code : ErrorCode) (s : State) : (raiseError code s).checks = s.checks := rfl
@[simp] theorem raiseError_draws (code : ErrorCode) (s : State) : (raiseError code s).draws = s.draws := rfl
@[simp] theorem raiseError_busy (code : ErrorCode) (s : State) : (raiseError code s).busy = s.busy := rfl

@[simp] theorem reportNone_cfg (s : State) : (reportNone s).cfg = s.cfg := rfl
@[simp] theorem reportNone_phase (s : State) : (reportNone s).phase = s.phase := rfl
@[simp] theorem reportNone_fbValid (s : State) : (reportNone s).fbValid = s.fbValid := rfl
@[simp] theorem reportNone_error (s : State) : (reportNone s).error = ⟨.noError, false⟩ := rfl
@[simp] theorem reportNone_result (s : State) : (reportNone s).result = s.result := rfl
@[simp] theorem reportNone_srcWidth (s : State) : (reportNone s).srcWidth = s.srcWidth := rfl
@[simp] theorem reportNone_srcHeight (s : State) : (reportNone s).srcHeight = s.srcHeight := rfl
@[simp] theorem reportNone_bytesSent (s : State) : (reportNone s).bytesSent = s.bytesSent := rfl
@[simp] theorem reportNone_chunkIndex (s : State) : (reportNone s).chunkIndex = s.chunkIndex := rfl
@[simp] theorem reportNone_src (s : State) : (reportNone s).src = s.src := rfl
@[simp] theorem reportNone_fb (s : State) : (reportNone s).fb = s.fb := rfl
@[simp] theorem reportNone_txlog (s : State) : (reportNone s).txlog = s.txlog := rfl
@[simp] theorem reportNone_inputs (s : State) : (reportNone s).inputs = s.inputs := rfl
@[simp] theorem reportNone_hostLog (s : State) : (reportNone s).hostLog = s.hostLog := rfl
@[simp] theorem reportNone_checks (s : State) : (reportNone s).checks = s.checks := rfl
@[simp] theorem reportNone_draws (s : State) : (reportNone s).draws = s.draws := rfl
@[simp] theorem reportNone_busy (s : State) : (reportNone s).busy = s.busy := rfl

@[simp] theorem logTx_cfg (bytes : List Byte) (r : TxResult) (s : State) : (logTx bytes r s).cfg = s.cfg := rfl
@[simp] theorem logTx_phase (bytes : List Byte) (r : TxResult) (s : State) : (logTx bytes r s).phase = s.phase := rfl
@[simp] theorem logTx_fbValid (bytes : List Byte) (r : TxResult) (s : State) : (logTx bytes r s).fbValid = s.fbValid := rfl
@[simp] theorem logTx_error (bytes : List Byte) (r : TxResult) (s : State) : (logTx bytes r s).error = s.error := rfl
@[simp] theorem logTx_result (bytes : List Byte) (r : TxResult) (s : State) : (logTx bytes r s).result = s.result := rfl
@[simp] theorem logTx_srcWidth (bytes : List Byte) (r : TxResult) (s : State) : (logTx bytes r s).srcWidth = s.srcWidth := rfl
@[simp] theorem logTx_srcHeight (bytes : List Byte) (r : TxResult) (s : State) : (logTx bytes r s).srcHeight = s.srcHeight := rfl
@[simp] theorem logTx_bytesSent (bytes : List Byte) (r : TxResult) (s : State) : (logTx bytes r s).bytesSent = s.bytesSent := rfl
@[simp] theorem logTx_chunkIndex (bytes : List Byte) (r : TxResult) (s : State) : (logTx bytes r s).chunkIndex = s.chunkIndex := rfl
@[simp] theorem logTx_src (bytes : List Byte) (r : TxResult) (s : State) : (logTx bytes r s).src = s.src := rfl
@[simp] theorem logTx_fb (bytes : List Byte) (r : TxResult) (s : State) : (logTx bytes r s).fb = s.fb := rfl
@[simp] theorem logTx_txlog (bytes : List Byte) (r : TxResult) (s : State) : (logTx bytes r s).txlog = s.txlog ++ [⟨s.cfg.epOut, bytes, r⟩] := rfl
@[simp] theorem logTx_inputs (bytes : List Byte) (r : TxResult) (s : State) : (logTx bytes r s).inputs = s.inputs := rfl
@[simp] theorem logTx_hostLog (bytes : List Byte) (r : TxResult) (s : State) : (logTx bytes r s).hostLog = s.hostLog := rfl
@[simp] theorem logTx_checks (bytes : List Byte) (r : TxResult) (s : State) : (logTx bytes r s).checks = s.checks := rfl
@[simp] theorem logTx_draws (bytes : List Byte) (r : TxResult) (s : State) : (logTx bytes r s).draws = s.draws := rfl
@[simp] theorem logTx_busy (bytes : List Byte) (r : TxResult) (s : State) : (logTx bytes r s).busy = s.busy := rfl

@[simp] theorem useDraws_cfg (n : Nat) (s : State) : (useDraws n s).cfg = s.cfg := rfl
@[simp] theorem useDraws_phase (n : Nat) (s : State) : (useDraws n s).phase = s.phase := rfl
@[simp] theorem useDraws_fbValid (n : Nat) (s : State) : (useDraws n s).fbValid = s.fbValid := rfl
@[simp] theorem useDraws_error (n : Nat) (s : State) : (useDraws n s).error = s.error := rfl
@[simp] theorem useDraws_result (n : Nat) (s : State) : (useDraws n s).result = s.result := rfl
@[simp] theorem useDraws_srcWidth (n : Nat) (s : State) : (useDraws n s).srcWidth = s.srcWidth := rfl
@[simp] theorem useDraws_srcHeight (n : Nat) (s : State) : (useDraws n s).srcHeight = s.srcHeight := rfl
@[simp] theorem useDraws_bytesSent (n : Nat) (s : State) : (useDraws n s).bytesSent = s.bytesSent := rfl
@[simp] theorem useDraws_chunkIndex (n : Nat) (s : State) : (useDraws n s).chunkIndex = s.chunkIndex := rfl
@[simp] theorem useDraws_src (n : Nat) (s : State) : (useDraws n s).src = s.src := rfl
@[simp] theorem useDraws_fb (n : Nat) (s : State) : (useDraws n s).fb = s.fb := rfl
@[simp] theorem useDraws_txlog (n : Nat) (s : State) : (useDraws n s).txlog = s.txlog := rfl
@[simp] theorem useDraws_inputs (n : Nat) (s : State) : (useDraws n s).inputs = s.inputs := rfl
@[simp] theorem useDraws_hostLog (n : Nat) (s : State) : (useDraws n s).hostLog = s.hostLog := rfl
@[simp] theorem useDraws_checks (n : Nat) (s : State) : (useDraws n s).checks = s.checks := rfl
@[simp] theorem useDraws_draws (n : Nat) (s : State) : (useDraws n s).draws = s.draws + n := rfl
@[simp] theorem useDraws_busy (n : Nat) (s : State) : (useDraws n s).busy = s.busy := rfl

@[simp] theorem respond_cfg (r : Response) (s : State) : (respond r s).cfg = s.cfg := rfl
@[simp] theorem respond_phase (r : Response) (s : State) : (respond r s).phase = s.phase := rfl
@[simp] theorem respond_fbValid (r : Response) (s : State) : (respond r s).fbValid = s.fbValid := rfl
@[simp] theorem respond_error (r : Response) (s : State) : (respond r s).error = s.error := rfl
@[simp] theorem respond_result (r : Response) (s : State) : (respond r s).result = s.result := rfl
@[simp] theorem respond_srcWidth (r : Response) (s : State) : (respond r s).srcWidth = s.srcWidth := rfl
@[simp] theorem respond_srcHeight (r : Response) (s : State) : (respond r s).srcHeight = s.srcHeight := rfl
@[simp] theorem respond_bytesSent (r : Response) (s : State) : (respond r s).bytesSent = s.bytesSent := rfl
@[simp] theorem respond_chunkIndex (r : Response) (s : State) : (respond r s).chunkIndex = s.chunkIndex := rfl
@[simp] theorem respond_src (r : Response) (s : State) : (respond r s).src = s.src := rfl
@[simp] theorem respond_fb (r : Response) (s : State) : (respond r s).fb = s.fb := rfl
@[simp] theorem respond_txlog (r : Response) (s : State) : (respond r s).txlog = s.txlog := rfl
@[simp] theorem respond_inputs (r : Response) (s : State) : (respond r s).inputs = s.inputs := rfl
@[simp] theorem respond_hostLog (r : Response) (s : State) : (respond r s).hostLog = s.hostLog ++ [r] := rfl
@[simp] theorem respond_checks (r : Response) (s : State) : (respond r s).checks = s.checks := rfl
@[simp] theorem respond_draws (r : Response) (s : State) : (respond r s).draws = s.draws := rfl
@[simp] theorem respond_busy (r : Response) (s : State) : (respond r s).busy = s.busy := rfl

@[simp] theorem noteCheck_cfg (met : Bool) (s : State) : (noteCheck met s).cfg = s.cfg := rfl
@[simp] theorem noteCheck_phase (met : Bool) (s : State) : (noteCheck met s).phase = s.phase := rfl
@[simp] theorem noteCheck_fbValid (met : Bool) (s : State) : (noteCheck met s).fbValid = s.fbValid := rfl
@[simp] theorem noteCheck_error (met : Bool) (s : State) : (noteCheck met s).error = s.error := rfl
@[simp] theorem noteCheck_result (met : Bool) (s : State) : (noteCheck met s).result = s.result := rfl
@[simp] theorem noteCheck_srcWidth (met : Bool) (s : State) : (noteCheck met s).srcWidth = s.srcWidth := rfl
@[simp] theorem noteCheck_srcHeight (met : Bool) (s : State) : (noteCheck met s).srcHeight = s.srcHeight := rfl
@[simp] theorem noteCheck_bytesSent (met : Bool) (s : State) : (noteCheck met s).bytesSent = s.bytesSent := rfl
@[simp] theorem noteCheck_chunkIndex (met : Bool) (s : State) : (noteCheck met s).chunkIndex = s.chunkIndex := rfl
@[simp] theorem noteCheck_src (met : Bool) (s : State) : (noteCheck met s).src = s.src := rfl
@[simp] theorem noteCheck_fb (met : Bool) (s : State) : (noteCheck met s).fb = s.fb := rfl
@[simp] theorem noteCheck_txlog (met : Bool) (s : State) : (noteCheck met s).txlog = s.txlog := rfl
@[simp] theorem noteCheck_inputs (met : Bool) (s : State) : (noteCheck met s).inputs = s.inputs := rfl
@[simp] theorem noteCheck_hostLog (met : Bool) (s : State) : (noteCheck met s).hostLog = s.hostLog := rfl
@[simp] theorem noteCheck_checks (met : Bool) (s : State) : (noteCheck met s).checks = s.checks ++ [met] := rfl
@[simp] theorem noteCheck_draws (met : Bool) (s : State) : (noteCheck met s).draws = s.draws := rfl
@[simp] theorem noteCheck_busy (met : Bool) (s : State) : (noteCheck met s).busy = s.busy := rfl

@[simp] theorem setInputs_cfg (l : List Input) (s : State) : (setInputs l s).cfg = s.cfg := rfl
@[simp] theorem setInputs_phase (l : List Input) (s : State) : (setInputs l s).phase = s.phase := rfl
@[simp] theorem setInputs_fbValid (l : List Input) (s : State) : (setInputs l s).fbValid = s.fbValid := rfl
@[simp] theorem setInputs_error (l : List Input) (s : State) : (setInputs l s).error = s.error := rfl
@[simp] theorem setInputs_result (l : List Input) (s : State) : (setInputs l s).result = s.result := rfl
@[simp] theorem setInputs_srcWidth (l : List Input) (s : State) : (setInputs l s).srcWidth = s.srcWidth := rfl
@[simp] theorem setInputs_srcHeight (l : List Input) (s : State) : (setInputs l s).srcHeight = s.srcHeight := rfl
@[simp] theorem setInputs_bytesSent (l : List Input) (s : State) : (setInputs l s).bytesSent = s.bytesSent := rfl
@[simp] theorem setInputs_chunkIndex (l : List Input) (s : State) : (setInputs l s).chunkIndex = s.chunkIndex := rfl
@[simp] theorem setInputs_src (l : List Input) (s : State) : (setInputs l s).src = s.src := rfl
@[simp] theorem setInputs_fb (l : List Input) (s : State) : (setInputs l s).fb = s.fb := rfl
@[simp] theorem setInputs_txlog (l : List Input) (s : State) : (setInputs l s).txlog = s.txlog := rfl
@[simp] theorem setInputs_inputs (l : List Input) (s : State) : (setInputs l s).inputs = l := rfl
@[simp] theorem setInputs_hostLog (l : List Input) (s : State) : (setInputs l s).hostLog = s.hostLog := rfl
@[simp] theorem setInputs_checks (l : List Input) (s : State) : (setInputs l s).checks = s.checks := rfl
@[simp] theorem setInputs_draws (l : List Input) (s : State) : (setInputs l s).draws = s.draws := rfl
@[simp] theorem setInputs_busy (l : List Input) (s : State) : (setInputs l s).busy = s.busy := rfl

@[simp] theorem dropInput_cfg (s : State) : (dropInput s).cfg = s.cfg := rfl
@[simp] theorem dropInput_phase (s : State) : (dropInput s).phase = s.phase := rfl
@[simp] theorem dropInput_fbValid (s : State) : (dropInput s).fbValid = s.fbValid := rfl
@[simp] theorem dropInput_error (s : State) : (dropInput s).error = s.error := rfl
@[simp] theorem dropInput_result (s : State) : (dropInput s).result = s.result := rfl
@[simp] theorem dropInput_srcWidth (s : State) : (dropInput s).srcWidth = s.srcWidth := rfl
@[simp] theorem dropInput_srcHeight (s : State) : (dropInput s).srcHeight = s.srcHeight := rfl
@[simp] theorem dropInput_bytesSent (s : State) : (dropInput s).bytesSent = s.bytesSent := rfl
@[simp] theorem dropInput_chunkIndex (s : State) : (dropInput s).chunkIndex = s.chunkIndex := rfl
@[simp] theorem dropInput_src (s : State) : (dropInput s).src = s.src := rfl
@[simp] theorem dropInput_fb (s : State) : (dropInput s).fb = s.fb := rfl
@[simp] theorem dropInput_txlog (s : State) : (dropInput s).txlog = s.txlog := rfl
@[simp] theorem dropInput_inputs (s : State) : (dropInput s).inputs = s.inputs.tail := rfl
@[simp] theorem dropInput_hostLog (s : State) : (dropInput s).hostLog = s.hostLog := rfl
@[simp] theorem dropInput_checks (s : State) : (dropInput s).checks = s.checks := rfl
@[simp] theorem dropInput_draws (s : State) : (dropInput s).draws = s.draws := rfl
@[simp] theorem dropInput_busy (s : State) : (dropInput s).busy = s.busy := rfl

end Sys2Proof.Machine
end

