-- ==== Sys2Proof/Laws/Memory.lean ====
section
/-! SUPPORT. The laws of sparse memories: read after write, the canonical form kept by every operation, and what
BUILD and the obfuscation pass leave in FB, byte by byte. -/

namespace Sys2Proof.Machine

section Reading
variable {α : Type}

@[simp] theorem Memory.read_nil (a : Nat) : Memory.read ([] : Memory α) a = none := rfl

theorem Memory.read_cons (k : Nat) (v : α) (m : Memory α) (a : Nat) :
    Memory.read ((k, v) :: m) a = if k = a then some v else Memory.read m a := rfl

theorem Memory.read_append (m n : Memory α) (a : Nat) :
    Memory.read (m ++ n) a = (Memory.read m a).or (Memory.read n a) := by
  induction m with
  | nil => rfl
  | cons p m ih =>
    obtain ⟨k, v⟩ := p
    by_cases h : k = a <;> simp [Memory.read_cons, h, ih]

theorem Memory.read_eq_none {m : Memory α} {a : Nat} (h : ∀ p ∈ m, p.1 ≠ a) :
    Memory.read m a = none := by
  induction m with
  | nil => rfl
  | cons p m ih =>
    obtain ⟨k, v⟩ := p
    have hk : k ≠ a := h (k, v) (by simp)
    simp [Memory.read_cons, hk, ih fun q hq => h q (by simp [hq])]

theorem Memory.mem_of_read {m : Memory α} {a : Nat} {v : α} (h : Memory.read m a = some v) :
    (a, v) ∈ m := by
  induction m with
  | nil => cases h
  | cons p m ih =>
    obtain ⟨k, w⟩ := p
    rw [Memory.read_cons] at h
    split at h
    · next hk => cases h; subst hk; simp
    · simp [ih h]

/-- A write makes its index known, with the value written. -/
@[simp] theorem Memory.read_write_same (m : Memory α) (a : Nat) (v : α) :
    Memory.read (Memory.write m a v) a = some v := by
  induction m with
  | nil => simp [Memory.write, Memory.read_cons]
  | cons p m ih =>
    obtain ⟨k, w⟩ := p
    unfold Memory.write
    split
    · simp [Memory.read_cons]
    · split
      · simp [Memory.read_cons]
      · next h => simp [Memory.read_cons, ih, Ne.symm h]

/-- A write leaves every other index alone. -/
theorem Memory.read_write_other (m : Memory α) {a b : Nat} (v : α) (h : b ≠ a) :
    Memory.read (Memory.write m a v) b = Memory.read m b := by
  induction m with
  | nil => simp [Memory.write, Memory.read_cons, Ne.symm h]
  | cons p m ih =>
    obtain ⟨k, w⟩ := p
    unfold Memory.write
    split
    · simp [Memory.read_cons, Ne.symm h]
    · split
      · next hk => subst hk; simp [Memory.read_cons, Ne.symm h]
      · simp [Memory.read_cons, ih]

theorem Memory.read_map (m : Memory α) (f : Nat → α → α) (a : Nat) :
    Memory.read (m.map fun p => (p.1, f p.1 p.2)) a = (Memory.read m a).map (f a) := by
  induction m with
  | nil => rfl
  | cons p m ih =>
    obtain ⟨k, v⟩ := p
    by_cases h : k = a
    · subst h; simp [Memory.read_cons]
    · simp only [List.map_cons, Memory.read_cons, h, if_false]; exact ih

end Reading

section CanonicalForm
variable {α : Type}

theorem Memory.wf_iff (m : Memory α) :
    m.wf = true ↔ List.Pairwise (fun p q => p.1 < q.1) m := by simp [Memory.wf]

theorem Memory.within_iff (m : Memory α) (n : Nat) :
    m.within n = true ↔ ∀ p ∈ m, p.1 < n := by simp [Memory.within]

@[simp] theorem Memory.nil_wf : Memory.wf ([] : Memory α) = true := rfl

@[simp] theorem Memory.nil_within (n : Nat) : Memory.within ([] : Memory α) n = true := rfl

theorem Memory.mem_write {m : Memory α} {a : Nat} {v : α} {p : Nat × α}
    (h : p ∈ Memory.write m a v) : p = (a, v) ∨ p ∈ m := by
  induction m with
  | nil => simpa [Memory.write] using h
  | cons q m ih =>
    obtain ⟨k, w⟩ := q
    unfold Memory.write at h
    split at h
    · simpa using h
    · split at h
      · simp only [List.mem_cons] at h ⊢; tauto
      · simp only [List.mem_cons] at h ⊢
        rcases h with h | h
        · tauto
        · rcases ih h with h | h <;> tauto

/-- A write keeps the canonical form. -/
theorem Memory.write_wf {m : Memory α} (a : Nat) (v : α) (h : m.wf = true) :
    (m.write a v).wf = true := by
  rw [Memory.wf_iff] at h ⊢
  induction m with
  | nil => simp [Memory.write]
  | cons q m ih =>
    obtain ⟨k, w⟩ := q
    rw [List.pairwise_cons] at h
    unfold Memory.write
    split
    · next hk =>
      refine List.pairwise_cons.2 ⟨fun p hp => ?_, List.pairwise_cons.2 h⟩
      rcases List.mem_cons.1 hp with rfl | hp
      · exact hk
      · exact lt_trans hk (h.1 p hp)
    · split
      · next hk => subst hk; exact List.pairwise_cons.2 h
      · next h1 h2 =>
        refine List.pairwise_cons.2 ⟨fun p hp => ?_, ih h.2⟩
        rcases Memory.mem_write hp with rfl | hp
        · show k < a; omega
        · exact h.1 p hp

/-- A write below the bound keeps every index below it. -/
theorem Memory.write_within {m : Memory α} {a n : Nat} (v : α) (ha : a < n)
    (h : m.within n = true) : (m.write a v).within n = true := by
  rw [Memory.within_iff] at h ⊢
  intro p hp
  rcases Memory.mem_write hp with rfl | hp
  · exact ha
  · exact h p hp

theorem Memory.map_wf {m : Memory α} (f : Nat → α → α) (h : m.wf = true) :
    Memory.wf (m.map fun p => (p.1, f p.1 p.2)) = true := by
  rw [Memory.wf_iff] at h ⊢
  rw [List.pairwise_map]
  exact h

theorem Memory.map_within {m : Memory α} {n : Nat} (f : Nat → α → α) (h : m.within n = true) :
    Memory.within (m.map fun p => (p.1, f p.1 p.2)) n = true := by
  rw [Memory.within_iff] at h ⊢
  intro p hp
  obtain ⟨q, hq, rfl⟩ := List.mem_map.1 hp
  exact h q hq

/-- Two memories in canonical form with the same readings are the same list. -/
theorem Memory.ext_of_wf {m n : Memory α} (hm : m.wf = true) (hn : n.wf = true)
    (h : ∀ a, m.read a = n.read a) : m = n := by
  rw [Memory.wf_iff] at hm hn
  induction m generalizing n with
  | nil =>
    cases n with
    | nil => rfl
    | cons q n =>
      obtain ⟨l, w⟩ := q
      simpa [Memory.read_cons] using h l
  | cons p m ih =>
    obtain ⟨k, v⟩ := p
    cases n with
    | nil => simpa [Memory.read_cons] using h k
    | cons q n =>
      obtain ⟨l, w⟩ := q
      rw [List.pairwise_cons] at hm hn
      have below : ∀ {m : Memory α} {a b : Nat}, (∀ p ∈ m, a < p.1) → b ≤ a → m.read b = none :=
        fun hh hb => Memory.read_eq_none fun p hp => by have := hh p hp; omega
      have hkl : k = l := by
        rcases lt_trichotomy k l with hlt | he | hlt
        · have := h k
          rw [Memory.read_cons, Memory.read_cons, if_pos rfl, if_neg (by omega),
            below hn.1 (by omega)] at this
          cases this
        · exact he
        · have := h l
          rw [Memory.read_cons, Memory.read_cons, if_pos rfl, if_neg (by omega),
            below hm.1 (by omega)] at this
          cases this
      subst hkl
      have hv : v = w := by simpa [Memory.read_cons] using h k
      subst hv
      congr 1
      refine ih hm.2 hn.2 fun a => ?_
      rcases le_or_gt a k with ha | ha
      · rw [below hm.1 ha, below hn.1 ha]
      · have := h a
        rwa [Memory.read_cons, Memory.read_cons, if_neg (by omega), if_neg (by omega)] at this

end CanonicalForm

section Blocks
variable {α : Type}

/-- A memory written block by block, each block within its own stretch of `P` indices. -/
structure Blocks (base P n : Nat) (f : Nat → Memory α) : Prop where
  sorted : ∀ y < n, List.Pairwise (fun p q => p.1 < q.1) (f y)
  bounds : ∀ y < n, ∀ p ∈ f y, base + y * P ≤ p.1 ∧ p.1 < base + y * P + P

theorem Blocks.mono {base P n m : Nat} {f : Nat → Memory α} (h : Blocks base P n f) (hm : m ≤ n) :
    Blocks base P m f :=
  ⟨fun y hy => h.sorted y (by omega), fun y hy => h.bounds y (by omega)⟩

theorem Blocks.mem_bounds {base P n : Nat} {f : Nat → Memory α} (h : Blocks base P n f)
    {p : Nat × α} (hp : p ∈ (List.range n).flatMap f) : base ≤ p.1 ∧ p.1 < base + n * P := by
  obtain ⟨y, hy, hp⟩ := List.mem_flatMap.1 hp
  have hy := List.mem_range.1 hy
  have hb := h.bounds y hy p hp
  have : y * P + P ≤ n * P := by
    calc y * P + P = (y + 1) * P := by ring
      _ ≤ n * P := Nat.mul_le_mul_right P hy
  omega

theorem Blocks.pairwise {base P n : Nat} {f : Nat → Memory α} (h : Blocks base P n f) :
    List.Pairwise (fun p q => p.1 < q.1) ((List.range n).flatMap f) := by
  induction n with
  | zero => simp
  | succ n ih =>
    have hn := h.mono (Nat.le_succ n)
    rw [List.range_succ, List.flatMap_append, List.pairwise_append]
    refine ⟨ih hn, by simpa using h.sorted n (by omega), fun p hp q hq => ?_⟩
    have h1 := hn.mem_bounds hp
    have h2 := h.bounds n (by omega) q (by simpa using hq)
    omega

theorem Blocks.read {base P n : Nat} {f : Nat → Memory α} (h : Blocks base P n f) {y a : Nat}
    (hy : y < n) (ha : base + y * P ≤ a ∧ a < base + y * P + P) :
    Memory.read ((List.range n).flatMap f) a = Memory.read (f y) a := by
  induction n with
  | zero => omega
  | succ n ih =>
    have hn := h.mono (Nat.le_succ n)
    rw [List.range_succ, List.flatMap_append, Memory.read_append]
    rcases Nat.lt_succ_iff_lt_or_eq.1 hy with hlt | rfl
    · rw [ih hn hlt]
      have : Memory.read (List.flatMap f [n]) a = none :=
        Memory.read_eq_none fun p hp => by
          have hb := h.bounds n (by omega) p (by simpa using hp)
          have : y * P + P ≤ n * P := by
            calc y * P + P = (y + 1) * P := by ring
              _ ≤ n * P := Nat.mul_le_mul_right P hlt
          omega
      rw [this, Option.or_none]
    · have : Memory.read ((List.range y).flatMap f) a = none :=
        Memory.read_eq_none fun p hp => by
          have hb := hn.mem_bounds hp
          omega
      simp [this]

end Blocks

section Framebuffer
variable (c : Config) (src : Memory Rgb)

theorem pixelCells_blocks (y n : Nat) :
    Blocks (y * c.pitch) 2 n (pixelCells c src y) := by
  constructor
  · intro x _
    unfold pixelCells
    split <;> simp
  · intro x _ p hp
    unfold pixelCells at hp
    split at hp
    · cases hp
    · simp only [List.mem_cons, List.not_mem_nil, or_false] at hp
      rcases hp with rfl | rfl <;> constructor <;> simp <;> omega

theorem mem_paddingCells {y : Nat} {p : Nat × Byte} (hp : p ∈ paddingCells c y) :
    y * c.pitch + 2 * c.width ≤ p.1 ∧ p.1 < y * c.pitch + c.pitch ∧ p.2 = 0#8 := by
  obtain ⟨k, hk, rfl⟩ := List.mem_map.1 hp
  have hk := List.mem_range.1 hk
  refine ⟨by simp, ?_, rfl⟩
  show _ + _ + k < _ + (2 * c.width + c.pad)
  omega

theorem paddingCells_pairwise (y : Nat) :
    List.Pairwise (fun p q => p.1 < q.1) (paddingCells c y) := by
  unfold paddingCells
  rw [List.pairwise_map]
  exact List.pairwise_lt_range.imp fun h => by simpa using h

theorem read_paddingCells (y : Nat) {k : Nat} (hk : k < c.pad) :
    Memory.read (paddingCells c y) (y * c.pitch + 2 * c.width + k) = some 0#8 := by
  have key : ∀ n, k < n → Memory.read
      ((List.range n).map fun k => (y * c.pitch + 2 * c.width + k, 0#8))
      (y * c.pitch + 2 * c.width + k) = some 0#8 := by
    intro n
    induction n with
    | zero => intro h; omega
    | succ n ih =>
      intro h
      rw [List.range_succ, List.map_append, Memory.read_append]
      rcases Nat.lt_succ_iff_lt_or_eq.1 h with h | rfl
      · rw [ih h]; rfl
      · rw [Memory.read_eq_none]
        · simp [Memory.read_cons]
        · intro p hp
          obtain ⟨j, hj, rfl⟩ := List.mem_map.1 hp
          have := List.mem_range.1 hj
          simp; omega
  exact key c.pad hk

theorem scanlineCells_blocks (n : Nat) : Blocks 0 c.pitch n (scanlineCells c src) := by
  constructor
  · intro y _
    refine List.pairwise_append.2
      ⟨(pixelCells_blocks c src y c.width).pairwise, paddingCells_pairwise c y, ?_⟩
    intro p hp q hq
    have h1 := (pixelCells_blocks c src y c.width).mem_bounds hp
    have h2 := mem_paddingCells c hq
    omega
  · intro y _ p hp
    rcases List.mem_append.1 hp with hp | hp
    · have h1 := (pixelCells_blocks c src y c.width).mem_bounds hp
      have : c.pitch = 2 * c.width + c.pad := rfl
      omega
    · have h2 := mem_paddingCells c hp
      omega

/-- BUILD writes FB in canonical form. -/
theorem buildFramebuffer_wf : (buildFramebuffer c src).wf = true :=
  (Memory.wf_iff _).2 (scanlineCells_blocks c src c.height).pairwise

/-- BUILD writes below FB_LEN only. -/
theorem buildFramebuffer_within : (buildFramebuffer c src).within c.fbLen = true := by
  rw [Memory.within_iff]
  intro p hp
  have := (scanlineCells_blocks c src c.height).mem_bounds hp
  simpa [Config.fbLen] using this.2

theorem read_buildFramebuffer_line {y a : Nat} (hy : y < c.height)
    (ha : y * c.pitch ≤ a ∧ a < y * c.pitch + c.pitch) :
    (buildFramebuffer c src).read a = (scanlineCells c src y).read a :=
  (scanlineCells_blocks c src c.height).read hy (by omega)

theorem read_buildFramebuffer_pixel {x y k : Nat} (hy : y < c.height) (hx : x < c.width)
    (hk : k < 2) :
    (buildFramebuffer c src).read (y * c.pitch + 2 * x + k)
      = (pixelCells c src y x).read (y * c.pitch + 2 * x + k) := by
  have hp : c.pitch = 2 * c.width + c.pad := rfl
  rw [read_buildFramebuffer_line c src hy (by omega), scanlineCells, Memory.read_append,
    (pixelCells_blocks c src y c.width).read hx (by omega)]
  have : (paddingCells c y).read (y * c.pitch + 2 * x + k) = none :=
    Memory.read_eq_none fun p hp => by
      have := mem_paddingCells c hp
      omega
  rw [this, Option.or_none]

/-- The low byte of a pixel of the framebuffer (R86, R91). -/
theorem read_buildFramebuffer_low {x y : Nat} (hy : y < c.height) (hx : x < c.width) :
    (buildFramebuffer c src).read (y * c.pitch + 2 * x)
      = (src.read (pixelIndex c x y)).map fun p => lowByte (encodePixel p) := by
  have := read_buildFramebuffer_pixel c src hy hx (k := 0) (by omega)
  rw [Nat.add_zero] at this
  rw [this, pixelCells]
  split <;> simp [*, Memory.read_cons]

/-- The high byte of a pixel of the framebuffer (R86, R91). -/
theorem read_buildFramebuffer_high {x y : Nat} (hy : y < c.height) (hx : x < c.width) :
    (buildFramebuffer c src).read (y * c.pitch + 2 * x + 1)
      = (src.read (pixelIndex c x y)).map fun p => highByte (encodePixel p) := by
  rw [read_buildFramebuffer_pixel c src hy hx (k := 1) (by omega), pixelCells]
  split <;> simp [*, Memory.read_cons]

/-- A padding byte of the framebuffer (R86). -/
theorem read_buildFramebuffer_pad {y k : Nat} (hy : y < c.height) (hk : k < c.pad) :
    (buildFramebuffer c src).read (y * c.pitch + 2 * c.width + k) = some 0#8 := by
  have hp : c.pitch = 2 * c.width + c.pad := rfl
  rw [read_buildFramebuffer_line c src hy (by omega), scanlineCells, Memory.read_append]
  have : Memory.read ((List.range c.width).flatMap (pixelCells c src y))
      (y * c.pitch + 2 * c.width + k) = none :=
    Memory.read_eq_none fun p hp => by
      have := (pixelCells_blocks c src y c.width).mem_bounds hp
      omega
  rw [this, Option.none_or, read_paddingCells c y hk]

/-- The obfuscation pass, byte by byte (R94, R99, R100). -/
theorem read_obfuscateFb (fb : Memory Byte) (i : Nat) :
    (obfuscateFb c fb).read i = (fb.read i).map fun b => b ^^^ keyByte c.key i :=
  Memory.read_map fb (fun i b => b ^^^ keyByte c.key i) i

/-- The obfuscation pass keeps the canonical form. -/
theorem obfuscateFb_wf {fb : Memory Byte} (h : fb.wf = true) : (obfuscateFb c fb).wf = true :=
  Memory.map_wf (fun i b => b ^^^ keyByte c.key i) h

/-- The obfuscation pass keeps every index below the bound. -/
theorem obfuscateFb_within {fb : Memory Byte} {n : Nat} (h : fb.within n = true) :
    (obfuscateFb c fb).within n = true :=
  Memory.map_within (fun i b => b ^^^ keyByte c.key i) h

end Framebuffer

/-- Both memories are in canonical form after reset. -/
theorem reset_memories_wf :
    State.reset.src.wf = true ∧ State.reset.fb.wf = true := ⟨rfl, rfl⟩

end Sys2Proof.Machine
end

