-- ==== Sys2Proof/Laws/Commands.lean ====
section
/-! SUPPORT. What each command, each Engine step, each host transaction and one step of the block can do, said once:
later proofs cite these instead of unfolding the definitions. -/

namespace Sys2Proof.Machine

/-- All that PACK can do. -/
theorem execPack_cases {r g b : Byte} {s t : State} (h : execPack r g b s = .next t) :
    (s.busy = true ∧ t = raiseError .busy s) ∨
    (s.busy = false ∧ t = reportNone { s with result := encode565 r g b }) := by
  unfold execPack at h
  split at h <;> cases h <;> simp_all

/-- All that BUILD can do. -/
theorem execBuild_cases {s t : State} (h : execBuild s = .next t) :
    (s.busy = true ∧ t = raiseError .busy s) ∨
    (s.busy = false ∧ geometryMatches s = true ∧
      t = reportNone { s with fb := buildFramebuffer s.cfg s.src, fbValid := true }) ∨
    (s.busy = false ∧ geometryMatches s = false ∧
      t = raiseError .invalidSourceGeometry { s with fbValid := false }) := by
  unfold execBuild at h
  split at h
  · cases h; simp_all
  · split at h <;> cases h <;> simp_all

/-- All that XOR can do. -/
theorem execXor_cases {s t : State} (h : execXor s = .next t) :
    (s.busy = true ∧ t = raiseError .busy s) ∨
    (s.busy = false ∧ t = reportNone { s with fb := obfuscateFb s.cfg s.fb, fbValid := false }) := by
  unfold execXor at h
  split at h <;> cases h <;> simp_all

/-- All that SEND can do. -/
theorem execSend_cases {s t : State} (h : execSend s = .next t) :
    (s.busy = true ∧ t = raiseError .busy s) ∨
    (s.busy = false ∧ s.fbValid = true ∧ t = reportNone
      { s with fbValid := false, bytesSent := 0, chunkIndex := 0, phase := .header }) ∨
    (s.busy = false ∧ s.fbValid = false ∧ t = raiseError .noValidFramebuffer s) := by
  unfold execSend at h
  split at h
  · cases h; simp_all
  · split at h <;> cases h <;> simp_all

/-- Every command gives a next state (R118, R126: an error is reported, it stops nothing). -/
theorem exec_next (i : Instr) (s : State) : ∃ t, exec i s = .next t := by
  cases i <;> simp only [exec, execPack, execBuild, execXor, execSend] <;> (repeat' split) <;>
    exact ⟨_, rfl⟩

/-- The geometry check, as the two equations R88 asks for. -/
theorem geometryMatches_iff (s : State) :
    geometryMatches s = true ↔
      s.srcWidth.toNat = s.cfg.width ∧ s.srcHeight.toNat = s.cfg.height := by
  simp [geometryMatches]

theorem geometryMatches_false (s : State) :
    geometryMatches s = false ↔
      (s.srcWidth.toNat ≠ s.cfg.width ∨ s.srcHeight.toNat ≠ s.cfg.height) := by
  rw [← Bool.not_eq_true, geometryMatches_iff]; tauto

/-- BUSY by phase (R23). -/
theorem busy_iff (s : State) :
    s.busy = true ↔ (s.phase = .header ∨ s.phase = .headerSent ∨ s.phase = .sending) := by
  unfold State.busy Phase.busy; cases s.phase <;> simp

theorem busy_false_iff (s : State) :
    s.busy = false ↔ (s.phase = .idle ∨ s.phase = .complete ∨ s.phase = .failed) := by
  unfold State.busy Phase.busy; cases s.phase <;> simp

/-- The words that decode to the commands without operands. -/
theorem decode_build {w : Word} (h : decode w = .ok .build) : w = 0x02000000#32 := by
  unfold decode at h; repeat' split at h
  all_goals simp_all

theorem decode_xor {w : Word} (h : decode w = .ok .xor) : w = 0x03000000#32 := by
  unfold decode at h; repeat' split at h
  all_goals simp_all

theorem decode_send {w : Word} (h : decode w = .ok .send) : w = 0x04000000#32 := by
  unfold decode at h; repeat' split at h
  all_goals simp_all

/-- All that a word written to CMD can do (R72, R73, R124). -/
theorem issueCommand_cases {w : Word} {s t : State} (h : issueCommand w s = .next t) :
    (∃ code, t = raiseError code s) ∨
    (s.busy = false ∧ (∃ r g b, decode w = .ok (.pack r g b) ∧
      t = reportNone { s with result := encode565 r g b })) ∨
    (s.busy = false ∧ w = 0x02000000#32 ∧ geometryMatches s = true ∧
      t = reportNone { s with fb := buildFramebuffer s.cfg s.src, fbValid := true }) ∨
    (s.busy = false ∧ w = 0x02000000#32 ∧ geometryMatches s = false ∧
      t = raiseError .invalidSourceGeometry { s with fbValid := false }) ∨
    (s.busy = false ∧ w = 0x03000000#32 ∧
      t = reportNone { s with fb := obfuscateFb s.cfg s.fb, fbValid := false }) ∨
    (s.busy = false ∧ w = 0x04000000#32 ∧ s.fbValid = true ∧ t = reportNone
      { s with fbValid := false, bytesSent := 0, chunkIndex := 0, phase := .header }) := by
  unfold issueCommand at h
  split at h
  · next i hi =>
    cases i with
    | pack r g b => rcases execPack_cases h with ⟨_, rfl⟩ | ⟨hb, rfl⟩
                    · exact .inl ⟨_, rfl⟩
                    · exact .inr (.inl ⟨hb, r, g, b, hi, rfl⟩)
    | build => rcases execBuild_cases h with ⟨_, rfl⟩ | ⟨hb, hg, rfl⟩ | ⟨hb, hg, rfl⟩
               · exact .inl ⟨_, rfl⟩
               · exact .inr (.inr (.inl ⟨hb, decode_build hi, hg, rfl⟩))
               · exact .inr (.inr (.inr (.inl ⟨hb, decode_build hi, hg, rfl⟩)))
    | xor => rcases execXor_cases h with ⟨_, rfl⟩ | ⟨hb, rfl⟩
             · exact .inl ⟨_, rfl⟩
             · exact .inr (.inr (.inr (.inr (.inl ⟨hb, decode_xor hi, rfl⟩))))
    | send => rcases execSend_cases h with ⟨_, rfl⟩ | ⟨hb, hv, rfl⟩ | ⟨_, _, rfl⟩
              · exact .inl ⟨_, rfl⟩
              · exact .inr (.inr (.inr (.inr (.inr ⟨hb, decode_send hi, hv, rfl⟩))))
              · exact .inl ⟨_, rfl⟩
  · cases h; exact .inl ⟨_, rfl⟩

theorem issueCommand_next (w : Word) (s : State) : ∃ t, issueCommand w s = .next t := by
  unfold issueCommand
  split
  · exact exec_next _ _
  · exact ⟨_, rfl⟩

/-- The offset at which each register stands (R18), read from the register map. -/
theorem registerMap_inj {a b : Nat} {r : Reg} (ha : registerMap.read a = some r)
    (hb : registerMap.read b = some r) : a = b := by
  have ha := Memory.mem_of_read ha
  have hb := Memory.mem_of_read hb
  simp only [registerMap, List.cons_append, List.nil_append, List.mem_cons, Prod.mk.injEq,
    List.not_mem_nil, or_false] at ha hb
  cases r <;> simp at ha hb <;> omega

/-- What an admitted access names, and at which offset (R48 to R50). -/
theorem accessTarget_cases {c : Config} {width : AccessWidth} {addr : Word} {t : Target}
    (h : accessTarget c width addr = .ok t) :
    width = .word ∧ addr.toNat % 4 = 0 ∧
    ((∃ r, t = .reg r ∧ addr.toNat < 0x100 ∧ registerMap.read addr.toNat = some r) ∨
     (∃ j, t = .src j ∧ j < c.pixels ∧ addr.toNat = srcBase + 4 * j) ∨
     (∃ i, t = .fb i ∧ i < c.fbLen ∧ addr.toNat = fbBase + i)) := by
  unfold accessTarget at h
  split at h
  · cases h
  · next hw =>
    split at h
    · cases h
    · next ha =>
      refine ⟨by simpa using hw, by omega, ?_⟩
      split at h
      · cases h
      · next t' ht =>
        cases h
        unfold mapOffset at ht
        split at ht
        · next hr =>
          obtain ⟨r, hr', rfl⟩ := Option.map_eq_some_iff.1 ht
          exact .inl ⟨r, rfl, hr, hr'⟩
        · split at ht
          · next hs =>
            cases ht
            have : srcBase % 4 = 0 := rfl
            exact .inr (.inl ⟨_, rfl, by omega, by omega⟩)
          · split at ht
            · next hf => cases ht; exact .inr (.inr ⟨_, rfl, by omega, by omega⟩)
            · cases ht

/-- All that a write to a register can do (R53). -/
theorem writeReg_cases {r : Reg} {v : Word} {s t : State} (h : writeReg r v s = .next t) :
    (r = .cmd ∧ issueCommand v s = .next t) ∨
    (r = .srcWidth ∧ t = { s with srcWidth := v.extractLsb' 0 16 }) ∨
    (r = .srcHeight ∧ t = { s with srcHeight := v.extractLsb' 0 16 }) ∨ t = s := by
  cases r <;> simp only [writeReg] at h <;> (try cases h) <;> simp_all

/-- All that a completed host write can do (R53). -/
theorem hostWrite_cases {width : AccessWidth} {addr v : Word} {s t : State}
    (h : hostWrite width addr v s = .next t) :
    width = .word ∧
    ((addr = 0x004#32 ∧ issueCommand v s = .next t) ∨
     (addr = 0x014#32 ∧ t = { s with srcWidth := v.extractLsb' 0 16 }) ∨
     (addr = 0x018#32 ∧ t = { s with srcHeight := v.extractLsb' 0 16 }) ∨
     (∃ j, j < s.cfg.pixels ∧ addr.toNat = srcBase + 4 * j ∧ t = writeSrc j v s) ∨
     (addr.toNat < 0x100 ∧ t = s)) := by
  unfold hostWrite at h
  split at h
  · cases h
  · next r hr =>
    obtain ⟨hw, _, hc⟩ := accessTarget_cases hr
    obtain ⟨r', hrr, hlt, hm⟩ | ⟨j, hj, _⟩ | ⟨i, hi, _⟩ := hc
    · cases hrr
      refine ⟨hw, ?_⟩
      rcases writeReg_cases h with ⟨rfl, hc⟩ | ⟨rfl, hc⟩ | ⟨rfl, hc⟩ | hc
      · have : addr.toNat = 4 := registerMap_inj hm rfl
        exact .inl ⟨BitVec.eq_of_toNat_eq this, hc⟩
      · have : addr.toNat = 0x14 := registerMap_inj hm rfl
        exact .inr (.inl ⟨BitVec.eq_of_toNat_eq this, hc⟩)
      · have : addr.toNat = 0x18 := registerMap_inj hm rfl
        exact .inr (.inr (.inl ⟨BitVec.eq_of_toNat_eq this, hc⟩))
      · exact .inr (.inr (.inr (.inr ⟨hlt, hc⟩)))
    · cases hj
    · cases hi
  · next j hj =>
    obtain ⟨hw, _, hc⟩ := accessTarget_cases hj
    cases h
    obtain ⟨r', hrr, _⟩ | ⟨j', hj, hlt, ha⟩ | ⟨i, hi, _⟩ := hc
    · cases hrr
    · cases hj; exact ⟨hw, .inr (.inr (.inr (.inl ⟨j, hlt, ha, rfl⟩)))⟩
    · cases hi
  · cases h

theorem writeReg_next (r : Reg) (v : Word) (s : State) : ∃ t, writeReg r v s = .next t := by
  cases r <;> simp only [writeReg] <;> first | exact issueCommand_next v s | exact ⟨_, rfl⟩

theorem hostWrite_not_refused {width : AccessWidth} {addr v : Word} {s : State} {r : Refusal} :
    hostWrite width addr v s ≠ .refused r := by
  unfold hostWrite
  split
  · simp
  · next q _ => obtain ⟨t, ht⟩ := writeReg_next q v s; simp [ht]
  · simp
  · simp

/-- How a host write completes (R45): OK with its effect, or BusError and nothing else. -/
theorem writeTransaction_cases (width : AccessWidth) (addr v : Word) (s : State) :
    (∃ t, hostWrite width addr v s = .next t ∧
      writeTransaction width addr v s = .next (respond .done t)) ∨
    ((∃ f, hostWrite width addr v s = .fault f) ∧
      writeTransaction width addr v s = .next (respond .busError s)) := by
  unfold writeTransaction
  cases h : hostWrite width addr v s with
  | next t => exact .inl ⟨t, rfl, rfl⟩
  | fault f => exact .inr ⟨⟨f, rfl⟩, rfl⟩
  | refused r => exact absurd h hostWrite_not_refused

/-- How a host read completes (R45, R52): one response, and no change of the block. -/
theorem readTransaction_eq (width : AccessWidth) (addr : Word) (s : State) :
    (∃ d, hostRead width addr s = .ok d ∧
      readTransaction width addr s = respond (.data d.value) (useDraws d.drawn s)) ∨
    ((∃ f, hostRead width addr s = .error f) ∧
      readTransaction width addr s = respond .busError s) := by
  unfold readTransaction
  cases h : hostRead width addr s with
  | ok d => exact .inl ⟨d, rfl, rfl⟩
  | error f => exact .inr ⟨⟨f, rfl⟩, rfl⟩

/-- What a 32-bit read of STATUS gives the Host (R21). -/
theorem hostRead_status (s : State) : hostRead .word 0x008#32 s = .ok ⟨statusWord s, 0⟩ := rfl

/-- What a 32-bit read of ERROR gives the Host (R25). -/
theorem hostRead_error (s : State) : hostRead .word 0x00C#32 s = .ok ⟨errorWord s, 0⟩ := rfl

/-- Bit 3 of STATUS is BUSY (R21). -/
theorem statusWord_busy (s : State) : (statusWord s).extractLsb' 3 1 = 0#1 ↔ s.busy = false := by
  unfold statusWord
  cases s.fbValid <;> cases s.busy <;> cases s.phase <;> decide

/-- One turn of `WAITIDLE`: one read of STATUS, and the loop goes on exactly while BUSY is set. -/
theorem pollIdle_eq (gaps : List Nat) (s : State) :
    pollIdle gaps s = if s.busy
      then setInputs (resumeAfter (.waitIdle gaps.tail) (gaps.headD 1) s.inputs)
        (respond (.data (statusWord s)) s)
      else respond (.data (statusWord s)) s := by
  unfold pollIdle valueRead readTransaction
  simp only [hostRead_status, Option.any_some, statusWord_busy]
  cases s.busy <;> rfl

/-- `CHECKERR`: one read of ERROR, and a note whether its CODE is the expected one. -/
theorem checkError_eq (code : Nat) (s : State) :
    checkError code s = noteCheck (((errorWord s).extractLsb' 0 4).toNat = code)
      (respond (.data (errorWord s)) s) := by
  unfold checkError valueRead readTransaction
  simp only [hostRead_error, Option.any_some]
  rfl

/-- Where a loop resumes: behind at most `gap` events, none of them the Host's, and behind fewer only where the
Host's own next event, or the end of the list, comes first. -/
theorem resumeAfter_split (w : Input) (gap : Nat) (l : List Input) :
    ∃ before later, l = before ++ later ∧ resumeAfter w gap l = before ++ w :: later ∧
      (∀ e ∈ before, e.fromHost = false) ∧ before.length ≤ gap ∧
      (before.length = gap ∨ ∀ e, later.head? = some e → e.fromHost = true) := by
  induction l generalizing gap with
  | nil => cases gap <;> exact ⟨[], [], rfl, rfl, by simp, by simp, by simp⟩
  | cons e rest ih =>
    cases gap with
    | zero => exact ⟨[], e :: rest, rfl, rfl, by simp, by simp, .inl rfl⟩
    | succ gap =>
      cases he : e.fromHost with
      | true =>
        exact ⟨[], e :: rest, rfl, by simp [resumeAfter, he], by simp, by simp,
          .inr fun e' h => by cases h; exact he⟩
      | false =>
        obtain ⟨before, later, hl, hr, hb, hle, hend⟩ := ih gap
        refine ⟨e :: before, later, by simp [hl], by simp [resumeAfter, he, hr], ?_, by simpa using hle,
          hend.imp (by simp) id⟩
        intro e' h
        rcases List.mem_cons.1 h with rfl | h
        · exact he
        · exact hb e' h

/-- All that one step can do: the configuration is legal, and the next event has happened. -/
theorem step_cases {s t : State} (h : step s = .next t) :
    s.cfg.legal = true ∧
    ((s.inputs = [] ∧ t = enginePass s) ∨
     (∃ width addr, s.inputs.head? = some (.read width addr) ∧
       t = readTransaction width addr (dropInput s)) ∨
     (∃ width addr v, s.inputs.head? = some (.write width addr v) ∧
       writeTransaction width addr v (dropInput s) = .next t) ∨
     (∃ a, s.inputs.head? = some (.answer a) ∧ t = transportAnswer a (dropInput s)) ∨
     (s.inputs.head? = some .enginePass ∧ t = enginePass (dropInput s)) ∨
     (s.inputs.head? = some .reset ∧ t = applyReset (dropInput s)) ∨
     (∃ gaps, s.inputs.head? = some (.waitIdle gaps) ∧ t = pollIdle gaps (dropInput s)) ∨
     (∃ code, s.inputs.head? = some (.checkErr code) ∧ t = checkError code (dropInput s))) := by
  unfold step stepBlock at h
  split at h
  · next hl =>
    refine ⟨hl, ?_⟩
    unfold takeInput at h
    split at h
    · next he => cases h; exact .inl ⟨he, rfl⟩
    · next e rest he =>
      rw [he]
      cases e <;> simp only [handleInput] at h <;> (try cases h) <;> simp_all
  · cases h

/-- The host events that only read change nothing but the model's own lists and counter. -/
theorem readTransaction_frame (width : AccessWidth) (addr : Word) (s : State) :
    ∃ log drawn, readTransaction width addr s = { s with hostLog := log, draws := drawn } := by
  rcases readTransaction_eq width addr s with ⟨d, _, h⟩ | ⟨_, h⟩ <;> exact ⟨_, _, h⟩

theorem pollIdle_frame (gaps : List Nat) (s : State) :
    ∃ ins log, pollIdle gaps s = { s with inputs := ins, hostLog := log } := by
  rw [pollIdle_eq]
  split <;> exact ⟨_, _, rfl⟩

theorem checkError_frame (code : Nat) (s : State) :
    ∃ log found, checkError code s = { s with hostLog := log, checks := found } :=
  ⟨_, _, checkError_eq code s⟩

/-- All that one step can do, the host events that only read (`read`, `waitIdle`, `checkErr`) taken together: they
change no state of the block. -/
theorem step_cases_reads {s t : State} (h : step s = .next t) :
    s.cfg.legal = true ∧
    ((s.inputs = [] ∧ t = enginePass s) ∨
     (∃ e, s.inputs.head? = some e ∧ e.fromHost = true ∧ (∀ width addr v, e ≠ .write width addr v) ∧
       ∃ ins log drawn found,
         t = { s with inputs := ins, hostLog := log, draws := drawn, checks := found }) ∨
     (∃ width addr v, s.inputs.head? = some (.write width addr v) ∧
       writeTransaction width addr v (dropInput s) = .next t) ∨
     (∃ a, s.inputs.head? = some (.answer a) ∧ t = transportAnswer a (dropInput s)) ∨
     (s.inputs.head? = some .enginePass ∧ t = enginePass (dropInput s)) ∨
     (s.inputs.head? = some .reset ∧ t = applyReset (dropInput s))) := by
  obtain ⟨hl, hc⟩ := step_cases h
  refine ⟨hl, ?_⟩
  rcases hc with hc | ⟨w, a, hh, rfl⟩ | hc | hc | hc | hc | ⟨gaps, hh, rfl⟩ | ⟨code, hh, rfl⟩
  · exact .inl hc
  · obtain ⟨log, drawn, he⟩ := readTransaction_frame w a (dropInput s)
    exact .inr (.inl ⟨_, hh, rfl, by simp, _, log, drawn, _, he⟩)
  · exact .inr (.inr (.inl hc))
  · exact .inr (.inr (.inr (.inl hc)))
  · exact .inr (.inr (.inr (.inr (.inl hc))))
  · exact .inr (.inr (.inr (.inr (.inr hc))))
  · obtain ⟨ins, log, he⟩ := pollIdle_frame gaps (dropInput s)
    exact .inr (.inl ⟨_, hh, rfl, by simp, ins, log, _, _, he⟩)
  · obtain ⟨log, found, he⟩ := checkError_frame code (dropInput s)
    exact .inr (.inl ⟨_, hh, rfl, by simp, _, log, _, found, he⟩)

/-- On a legal configuration every step gives a next state. -/
theorem step_eq_of_legal {s : State} (hl : s.cfg.legal = true) :
    step s = takeInput s := by simp [step, stepBlock, hl]

end Sys2Proof.Machine
end

