-- ==== Sys2Proof/Laws/PerInstr.lean ====
section
/-! SUPPORT. Facts about each command as syntax, one lemma per constructor of `Instr`. -/

namespace Sys2Proof.Laws

/-- The `match` word of a command's row of spec/opcode_table.json. -/
def rowMatch : Instr → Word
  | .pack _ _ _ => 0x01000000#32
  | .build => 0x02000000#32
  | .xor => 0x03000000#32
  | .send => 0x04000000#32

/-- The `mask` word of a command's row of spec/opcode_table.json. -/
def rowMask : Instr → Word
  | .pack _ _ _ => 0xFF000000#32
  | .build => 0xFFFFFFFF#32
  | .xor => 0xFFFFFFFF#32
  | .send => 0xFFFFFFFF#32

/-- The word a command encodes to fits its row of the opcode table: under the row's mask it is the row's match. -/
def TableRow.Statement (i : Instr) : Prop := encode i &&& rowMask i = rowMatch i

theorem TableRow.pack (r g b : Byte) : TableRow.Statement (.pack r g b) := by
  unfold TableRow.Statement rowMask rowMatch encode
  ext i hi
  simp only [BitVec.getElem_and, BitVec.getElem_or, BitVec.getElem_shiftLeft,
    BitVec.getElem_setWidth]
  interval_cases i <;> simp

theorem TableRow.build : TableRow.Statement .build := rfl

theorem TableRow.xor : TableRow.Statement .xor := rfl

theorem TableRow.send : TableRow.Statement .send := rfl

end Sys2Proof.Laws
end

