-- ==== Sys2Proof/Laws/Run.lean ====
section
/-! SUPPORT. Runs of the block: one step at a time, and one run after another. -/

namespace Sys2Proof.Machine

@[simp] theorem run_zero (s : State) : core.run 0 s = .next s := rfl

/-- A run of `n + 1` steps whose first step gives `t` is a run of `n` steps from `t`. -/
theorem run_succ_of_step {n : Nat} {s t : State} (h : step s = .next t) :
    core.run (n + 1) s = core.run n t := by
  have h' : core.step s = .next t := h
  simp only [Host.Core.run, h']

/-- A run of `m` steps and then `n` more. -/
theorem run_add_of_run {m n : Nat} {s t : State} (h : core.run m s = .next t) :
    core.run (m + n) s = core.run n t := by
  induction m generalizing s with
  | zero => cases h; rw [Nat.zero_add]
  | succ m ih =>
    cases hs : step s with
    | next u =>
      rw [run_succ_of_step hs] at h
      rw [Nat.add_right_comm, run_succ_of_step hs]
      exact ih h
    | fault f =>
      have hs' : core.step s = .fault f := hs
      simp only [Host.Core.run, hs'] at h
      cases h
    | refused r =>
      have hs' : core.step s = .refused r := hs
      simp only [Host.Core.run, hs'] at h
      cases h

end Sys2Proof.Machine
end

