-- ==== Sys2Proof/Tests/Slice0.lean ====
section
/-! SUPPORT. Tests on fixed values, their expected results taken from 30_encoding.md R78 and 95_test_vectors.md,
and, for every statement with hypotheses, a concrete state and operands that meet them (`witness_…`). -/

namespace Sys2Proof.Tests

open Sys2Proof Sys2Proof.Machine

/-! ### Small states -/

/-- The Small configuration of 95_test_vectors.md, with a concrete endpoint number. -/
def small : Config where
  width := 2
  height := 2
  pad := 2
  key := [0xE7#8, 0xF3#8, 0xE7#8, 0xFF#8]
  chunkMax := 5
  header := [0xFF#8, 0xCC#8, 0xAA#8, 0x88#8] ++ List.replicate 12 0x00#8
  epOut := 0x07#8

/-- The odd-pitch configuration of V5: PITCH = 3, FB_LEN = 6. -/
def oddPitch : Config := { small with width := 1, pad := 1, chunkMax := 4 }

/-- The image of V3. -/
def image : Memory Rgb := [(0, 0xFF0000#24), (1, 0x00FF00#24), (2, 0x0000FF#24), (3, 0xFFFFFF#24)]

/-- FB after BUILD (V3). -/
def plainFb : Memory Byte :=
  [(0, 0x00#8), (1, 0xF8#8), (2, 0xE0#8), (3, 0x07#8), (4, 0x00#8), (5, 0x00#8),
   (6, 0x1F#8), (7, 0x00#8), (8, 0xFF#8), (9, 0xFF#8), (10, 0x00#8), (11, 0x00#8)]

/-- FB after XOR (V3). -/
def keyedFb : Memory Byte :=
  [(0, 0xE7#8), (1, 0x0B#8), (2, 0x07#8), (3, 0xF8#8), (4, 0xE7#8), (5, 0xF3#8),
   (6, 0xF8#8), (7, 0xFF#8), (8, 0x18#8), (9, 0x0C#8), (10, 0xE7#8), (11, 0xFF#8)]

/-- The TXLOG entries of the frame of P3, header first. -/
def frameLog : List TxEntry :=
  [⟨0x07#8, small.header, .ok⟩, ⟨0x07#8, [0xE7#8, 0x0B#8, 0x07#8, 0xF8#8, 0xE7#8], .ok⟩,
   ⟨0x07#8, [0xF3#8, 0xF8#8, 0xFF#8, 0x18#8, 0x0C#8], .ok⟩, ⟨0x07#8, [0xE7#8, 0xFF#8], .ok⟩]

/-- The Small block after reset. -/
def fresh : State := { State.reset with cfg := small }

/-- The image is loaded and its geometry declared. -/
def loaded : State := { fresh with srcWidth := 2, srcHeight := 2, src := image }

/-- BUILD has run: FB_VALID = 1. -/
def built : State := { loaded with fb := plainFb, fbValid := true }

/-- SEND has been accepted. -/
def inHeader : State := { loaded with fb := plainFb, phase := .header }

/-- The header write has answered Ok. -/
def inHeaderSent : State := { inHeader with phase := .headerSent, txlog := frameLog.take 1 }

/-- The write of chunk `i` is outstanding. -/
def inSending (i : Nat) : State :=
  { inHeader with
    phase := .sending
    fb := keyedFb
    chunkIndex := BitVec.ofNat 32 i
    bytesSent := BitVec.ofNat 32 (5 * i)
    txlog := frameLog.take (1 + i) }

/-- The frame is complete. -/
def inComplete : State :=
  { inHeader with phase := .complete, fb := keyedFb, chunkIndex := 3, bytesSent := 12, txlog := frameLog }

/-- The write of chunk 1 answered Err. -/
def inFailed : State :=
  { inSending 1 with
    phase := .failed
    error := ⟨.transportWriteFailed, true⟩
    txlog := frameLog.take 2 ++ [⟨0x07#8, [0xF3#8, 0xF8#8, 0xFF#8, 0x18#8, 0x0C#8], .err⟩] }

/-- `s` with the events `l` pending. -/
def pending (s : State) (l : List Input) : State := { s with inputs := l }

/-- The Host's write of the word `w` to CMD. -/
def cmdWrite (w : Word) : Input := .write .word 0x004#32 w

/-- The state an outcome gives, if it gives one. -/
def nextOf : Host.Outcome State Fault Refusal → Option State
  | .next t => some t
  | .fault _ => none
  | .refused _ => none

/-- The state after one step, or `s` itself where the step gives none. -/
def after (s : State) : State := (nextOf (step s)).getD s

/-! ### Decoding words written out from the spec's encoding (R69 to R73) -/

theorem test_decode_pack_bits :
    decode 0b00000001110010000110010000110010#32 = .ok (.pack 200 100 50) := rfl

theorem test_decode_pack_lanes :
    decode 0b00000001000100100011010001010110#32 = .ok (.pack 0x12 0x34 0x56) := rfl

theorem test_decode_build_bits : decode 0b00000010000000000000000000000000#32 = .ok .build := rfl

theorem test_decode_xor_bits : decode 0b00000011000000000000000000000000#32 = .ok .xor := rfl

theorem test_decode_send_bits : decode 0b00000100000000000000000000000000#32 = .ok .send := rfl

/-- V10: a reserved bit is set. -/
theorem test_decode_reserved_bit : decode 0x03000100#32 = .error (.reservedOperandBits 0x03) := rfl

theorem test_decode_last_opcode : decode 0xFF000000#32 = .error (.unassignedOpcode 0xFF) := rfl

theorem test_decodeTableWord : decodeTableWord 32 0x01123456 = some (.pack 0x12 0x34 0x56) := rfl

/-! ### WellFormed refuses an ill-formed statement of each kind (R76, R77). No term of `Instr` is ill formed: its
operands are `u8` by their type. -/

theorem test_wf_pack : HostStmt.wellFormed small (.pack 255 255 255) = true := by decide
theorem test_wf_pack_red : HostStmt.wellFormed small (.pack 256 0 0) = false := by decide
theorem test_wf_pack_green : HostStmt.wellFormed small (.pack 0 256 0) = false := by decide
theorem test_wf_pack_blue : HostStmt.wellFormed small (.pack 0 0 256) = false := by decide
theorem test_wf_write_offset : HostStmt.wellFormed small (.wr 0x100000000 0) = false := by decide
theorem test_wf_write_value : HostStmt.wellFormed small (.wr 0 0x100000000) = false := by decide
theorem test_wf_read_offset : HostStmt.wellFormed small (.rd 0x100000000) = false := by decide
theorem test_wf_geometry_width : HostStmt.wellFormed small (.setGeom 0x100000000 2) = false := by decide
theorem test_wf_geometry_height : HostStmt.wellFormed small (.setGeom 2 0x100000000) = false := by decide
theorem test_wf_pixel_offset : HostStmt.wellFormed small (.pix 0x40000000 0 0 0 0) = false := by decide
theorem test_wf_pixel_red : HostStmt.wellFormed small (.pix 0 0 256 0 0) = false := by decide
theorem test_wf_pixel_green : HostStmt.wellFormed small (.pix 0 0 0 256 0) = false := by decide
theorem test_wf_pixel_blue : HostStmt.wellFormed small (.pix 0 0 0 0 256) = false := by decide

/-- `PIX 1, 1, 255, 255, 255` of P2. -/
theorem test_assemble_pixel :
    assemble small (.pix 1 1 255 255 255) = some [.write .word 0x0010000C#32 0x00FFFFFF#32] := rfl

/-- `WAITIDLE` and `CHECKERR` expand to the Host's loop and comparison (R77). -/
theorem test_assemble_loop :
    assembleAll small [.waitIdle, .checkErr 5] = some [.waitIdle [], .checkErr 5] := by decide

/-! ### The commands, one step each -/

/-- FB is a list of the host's cells. -/
theorem test_memory_is_cells : Memory Byte = List Host.Cell := rfl

/-- V4: `PACK 200, 100, 50`. -/
theorem test_pack_mixed :
    (nextOf (exec (.pack 200 100 50) inComplete)).map (fun t => (t.result, t.phase))
      = some (0xCB26#16, .complete) := by decide

/-- V4: `PACK 8, 4, 8`, the lowest step of each lane. -/
theorem test_pack_lowest_step :
    (nextOf (exec (.pack 8 4 8) fresh)).map State.result = some 0x0821#16 := by decide

/-- V3: BUILD on the Small configuration. -/
theorem test_build_small :
    (nextOf (exec .build loaded)).map (fun t => (t.fb, t.fbValid)) = some (plainFb, true) := by decide

/-- V5: an odd pitch, here with SRC[1] UNKNOWN, whose two bytes stay UNKNOWN (R91). -/
theorem test_build_odd_pitch :
    (nextOf (exec .build
        { fresh with cfg := oddPitch, srcWidth := 1, srcHeight := 2, src := [(0, 0xFF0000#24)] })).map State.fb
      = some [(0, 0x00#8), (1, 0xF8#8), (2, 0x00#8), (5, 0x00#8)] := by decide

/-- V3: XOR; scanline 1 starts at key phase 2. -/
theorem test_xor_small :
    (nextOf (exec .xor built)).map (fun t => (t.fb, t.fbValid)) = some (keyedFb, false) := by decide

/-- V10: XOR right after reset leaves FB UNKNOWN. -/
theorem test_xor_after_reset :
    (nextOf (exec .xor fresh)).map (fun t => (t.fb, errorWord t)) = some ([], 0#32) := by decide

/-- V11: SEND accepted. -/
theorem test_send_accepted :
    (nextOf (exec .send built)).map (fun t => (statusWord t, errorWord t, t.txlog))
      = some (0x00000009#32, 0#32, []) := by decide

/-- V11: SEND in FAILED with FB_VALID = 0. -/
theorem test_send_without_framebuffer :
    (nextOf (exec .send inFailed)).map (fun t => (statusWord t, errorWord t, t.chunkIndex))
      = some (0x00000005#32, 0x00000005#32, 1) := by decide

/-! ### Engine steps, host accesses, reset -/

/-- V12: the header write answers Err. -/
theorem test_header_error :
    (fun t => (statusWord t, errorWord t, t.fb, t.txlog)) (after (pending inHeader [.answer .err]))
      = (0x00000005#32, 0x00000002#32, plainFb, [⟨0x07#8, small.header, .err⟩]) := by decide

/-- P3: the obfuscation pass. -/
theorem test_pass : (after (pending inHeaderSent [.enginePass])).fb = keyedFb := by decide

/-- P3: the last chunk, `E7 FF`, answers Ok. -/
theorem test_last_chunk :
    (fun t => (statusWord t, t.bytesSent, t.chunkIndex, t.txlog))
        (after (pending (inSending 2) [.answer .ok]))
      = (0x00000004#32, 12#32, 3#32, frameLog) := by decide

/-- R111: chunk 1 answers Err. -/
theorem test_chunk_error :
    (fun t => (errorWord t, t.bytesSent, t.txlog)) (after (pending (inSending 1) [.answer .err]))
      = (0x00000102#32, 5#32, inFailed.txlog) := by decide

/-- V3: the FB word at 0x00200000. -/
theorem test_read_framebuffer :
    (after (pending built [.read .word 0x00200000#32])).hostLog = [.data 0x07E0F800#32] := by decide

/-- V5: the last FB word of an odd-pitch configuration reads 0 past FB_LEN. -/
theorem test_read_partial_word :
    (after (pending
        { fresh with cfg := oddPitch, fb := [(4, 0xE7#8), (5, 0xF3#8)] }
        [.read .word 0x00200004#32])).hostLog = [.data 0x0000F3E7#32] := by decide

/-- V3: one past FB. -/
theorem test_read_past_framebuffer :
    (after (pending built [.read .word 0x0020000C#32])).hostLog = [.busError] := by decide

/-- P3: `WAITIDLE` in COMPLETE reads 0x00000004 and is over at once. -/
theorem test_wait_over :
    (fun t => (t.hostLog, t.inputs)) (after (pending inComplete [.waitIdle []]))
      = ([.data 0x00000004#32], []) := by decide

/-- R77: while BUSY = 1 the loop goes on, here after the next answer and before the Host's own next read. -/
theorem test_wait_goes_on :
    (fun t => (t.hostLog, t.inputs))
        (after (pending (inSending 2) [.waitIdle [2, 0], .answer .ok, .read .word 0x00C#32, .reset]))
      = ([.data 0x0000000B#32], [.answer .ok, .waitIdle [0], .read .word 0x00C#32, .reset]) := by decide

/-- R77: `CHECKERR` compares CODE only, not STAGE. -/
theorem test_checkErr :
    (after (pending inFailed [.checkErr 2])).checks = [true] ∧
      (after (pending inFailed [.checkErr 258])).checks = [false] := by decide

/-- V13: a write to SRC ignores bits [31:24]. -/
theorem test_write_source :
    (after (pending fresh [.write .word 0x00100000#32 0xFFFF0000#32])).src
      = [(0, 0xFF0000#24)] := by decide

/-- V14: a reset in SENDING keeps TXLOG and adds one entry. -/
theorem test_reset_in_sending :
    (after (pending (inSending 1) [.reset])).txlog.take 2 = frameLog.take 2 ∧
      (after (pending (inSending 1) [.reset])).txlog.length = 3 := by
  constructor <;> rfl

/-- The first step of a withFetchWord state from reset runs that command. -/
theorem test_fetch_after_reset :
    (after (State.reset.withFetchWord 32 0x01FF0000)).result = 0xF800#16 := by decide

/-! ### Witnesses: the hypotheses of each statement can be met, clause by clause -/

theorem witness_DecodeEncodeAgree :
    Instr.wellFormed (.pack 255 255 255) = true ∧ decode 0x01FFFFFF#32 = .ok (.pack 255 255 255) :=
  ⟨by decide, rfl⟩

theorem witness_IllegalWordsOnlyReport :
    decode 0x00FFFFFF#32 = .error (.unassignedOpcode 0x00) ∧
    decode 0x05000000#32 = .error (.unassignedOpcode 0x05) ∧
    decode 0x02000001#32 = .error (.reservedOperandBits 0x02) ∧
    decode 0x04FFFFFF#32 = .error (.reservedOperandBits 0x04) := ⟨rfl, rfl, rfl, rfl⟩

theorem witness_PackAssemblesExactlyInRange :
    (assemble small (.pack 255 0 255)).isSome = true ∧ assemble small (.pack 0 256 0) = none := by
  decide

theorem witness_StepRunsDecodedCommand :
    (pending built [cmdWrite 0x04000000#32]).cfg.legal = true ∧
    (pending built [cmdWrite 0x04000000#32]).inputs = .write .word 0x004#32 0x04000000#32 :: [] ∧
    decode 0x04000000#32 = .ok .send ∧ Instr.wellFormed .send = true := ⟨by decide, rfl, rfl, rfl⟩

theorem witness_PackWritesResult : inHeader.busy = true ∧ built.busy = false := by decide

theorem witness_BuildWritesFramebuffer :
    (inSending 0).busy = true ∧ (fresh.busy = false ∧ fresh.srcHeight.toNat ≠ fresh.cfg.height) ∧
    (loaded.busy = false ∧ loaded.srcWidth.toNat = loaded.cfg.width ∧
      loaded.srcHeight.toNat = loaded.cfg.height) ∧
    (1 < loaded.cfg.height ∧ 1 < loaded.cfg.width ∧ 1 < loaded.cfg.pad ∧ loaded.cfg.fbLen ≤ 12) := by
  decide

theorem witness_BuildRejectsWrongGeometry :
    (fresh.busy = false ∧ fresh.srcWidth.toNat ≠ fresh.cfg.width) ∧
    ({ loaded with srcHeight := 3 }.busy = false ∧
      ({ loaded with srcHeight := 3 } : State).srcHeight.toNat ≠ loaded.cfg.height) ∧
    (fresh.cfg.legal = true ∧ fresh.srcWidth = 0) ∧
    (({ loaded with srcHeight := 0 } : State).cfg.legal = true ∧
      ({ loaded with srcHeight := 0 } : State).srcHeight = 0) := by decide

theorem witness_BuildDefinesWholeFramebuffer :
    loaded.busy = false ∧ loaded.srcWidth.toNat = loaded.cfg.width ∧
    loaded.srcHeight.toNat = loaded.cfg.height ∧
    (∀ j < loaded.cfg.width * loaded.cfg.height, (loaded.src.read j).isSome) ∧
    exec .build loaded = .next ((nextOf (exec .build loaded)).getD loaded) :=
  ⟨by decide, by decide, by decide, by decide, rfl⟩

theorem witness_XorObfuscatesInPlace : inHeaderSent.busy = true ∧ fresh.busy = false := by decide

theorem witness_ObfuscateByteFormula :
    (small.key.length = 4 ∧ [0x00#8, 0xF8#8, 0x00#8, 0xF8#8, 0x00#8][4]? = some 0x00#8 ∧
      small.key[4 % 4]? = some 0xE7#8) ∧
    plainFb.read 11 = some 0x00#8 ∧ small.key[11 % 4]? = some 0xFF#8 := by decide

theorem witness_ObfuscateWordIsKeyWordXor :
    ([0x01#8, 0x02#8][0]? = [0xFF#8, 0, 0, 0, 0x01#8][4]? ∧ 0 % 4 = 4 % 4) ∧
    [0x00#8, 0xF8#8, 0xE0#8, 0x07#8].length = 4 * 1 := by decide

theorem witness_XorTwiceRestoresFramebuffer : built.busy = false := by decide

theorem witness_SendStartsFrame :
    inHeader.busy = true ∧ (inComplete.busy = false ∧ inComplete.fbValid = false) ∧
    (built.phase = .idle ∧ built.fbValid = true) ∧
    (({ inFailed with fbValid := true } : State).phase = .failed ∧
      ({ inFailed with fbValid := true } : State).fbValid = true) ∧
    (({ inComplete with fbValid := true } : State).phase = .complete ∧
      ({ inComplete with fbValid := true } : State).fbValid = true) := by decide

theorem witness_BusyRejectsEveryCommand : inHeader.busy = true ∧ (inSending 2).busy = true := by decide

theorem witness_CommandErrorPriority :
    decode 0x05000000#32 = .error (.unassignedOpcode 0x05) ∧
    (decode 0x01000000#32 = .ok (.pack 0 0 0) ∧ inHeader.busy = true) ∧
    (decode 0x04000000#32 = .ok .send ∧ fresh.busy = false ∧ fresh.fbValid = false) ∧
    (decode 0x02000000#32 = .ok .build ∧ fresh.busy = false ∧
      fresh.srcWidth.toNat ≠ fresh.cfg.width) :=
  ⟨rfl, ⟨rfl, by decide⟩, ⟨rfl, by decide, by decide⟩, ⟨rfl, by decide, by decide⟩⟩

theorem witness_HeaderAnswerStep :
    (pending inHeader [.answer .ok]).cfg.legal = true ∧ (pending inHeader [.answer .ok]).phase = .header ∧
    (pending inHeader [.answer .ok]).inputs = .answer .ok :: [] ∧
    (pending inHeader [.answer .err]).inputs = .answer .err :: [] := by decide

theorem witness_ObfuscationPassStep :
    (pending inHeaderSent [.enginePass]).cfg.legal = true ∧
    (pending inHeaderSent [.enginePass]).phase = .headerSent ∧
    (pending inHeaderSent [.enginePass]).inputs = .enginePass :: [] := by decide

/-- At the last chunk and at one before it, with a known byte at the last index of the chunk. -/
theorem witness_ChunkAnswerStep :
    ∀ i ∈ [1, 2], ∀ a ∈ [Answer.ok, Answer.err],
      (pending (inSending i) [.answer a]).cfg.legal = true ∧
      (pending (inSending i) [.answer a]).phase = .sending ∧
      (pending (inSending i) [.answer a]).chunkIndex.toNat < small.nchunks ∧
      (pending (inSending i) [.answer a]).inputs = .answer a :: [] ∧
      1 < min (i * 5 + 5) 12 - i * 5 ∧
      ((inSending i).fb.read (i * 5 + 1)).isSome = true := by decide

theorem witness_TerminalPhasesHaveNoEngineStep :
    (pending inComplete [.answer .ok]).phase = .complete ∧
    step (pending inComplete [.answer .ok]) = .next (after (pending inComplete [.answer .ok])) ∧
    (pending inFailed [.reset]).phase = .failed ∧
    step (pending inFailed [.reset]) = .next (after (pending inFailed [.reset])) ∧
    (pending inComplete [.answer .ok]).inputs.head? = some (.answer .ok) ∧
    (pending inFailed [.enginePass]).inputs.head? = some .enginePass :=
  ⟨rfl, rfl, rfl, rfl, rfl, rfl⟩

theorem witness_UnansweredWriteKeepsBlockBusy :
    inHeader.cfg.legal = true ∧ inHeader.phase = .header ∧ (inSending 2).phase = .sending ∧
    inHeader.inputs = [] ∧ exec .build inHeader = .next { inHeader with error := ⟨.busy, false⟩ } :=
  ⟨by decide, rfl, rfl, rfl, rfl⟩

theorem witness_ChunkPartition :
    (inSending 0).cfg.legal = true ∧ 0 < small.nchunks ∧ 1 < small.nchunks - 1 ∧
    2 < small.nchunks ∧ 2 = small.nchunks - 1 ∧ 1 < min ((2 + 1) * 5) small.fbLen - 2 * 5 ∧
    (inSending 0).fb.read (2 * 5 + 1) = some 0xFF#8 := by decide

theorem witness_ChunksCoverPayload :
    (inSending 0).cfg.legal = true ∧ 2 < small.nchunks ∧
    (keyedFb.map Prod.snd).length = small.fbLen ∧
    (∀ i < small.fbLen, (inSending 0).fb.read i = (keyedFb.map Prod.snd)[i]?) ∧
    ({ small with chunkMax := 12 }.legal = true ∧
      ({ small with chunkMax := 12 } : Config).fbLen ≤ ({ small with chunkMax := 12 } : Config).chunkMax) := by
  decide

theorem witness_WholeFrameIsDelivered :
    (pending inHeader (.answer .ok :: .enginePass :: (List.replicate 3 (.answer .ok) ++ [.reset]))).Inv ∧
    (pending inHeader (.answer .ok :: .enginePass :: (List.replicate 3 (.answer .ok) ++ [.reset]))).inputs
      = .answer .ok :: .enginePass :: (List.replicate small.nchunks (.answer .ok) ++ [.reset]) ∧
    inHeader.phase = .header ∧ inHeader.fb.read 11 = some 0x00#8 :=
  ⟨by constructor <;> decide, by decide, by decide⟩

theorem witness_ChunkFailureAbortsFrame :
    (pending inHeader (.answer .ok :: .enginePass :: (List.replicate 2 (.answer .ok) ++ [.answer .err]))).Inv ∧
    inHeader.phase = .header ∧ 2 < inHeader.cfg.nchunks ∧ 0 < inHeader.cfg.nchunks :=
  ⟨by constructor <;> decide, by decide⟩

theorem witness_ConfigurationRegistersRead :
    fresh.cfg.legal = true ∧ fresh.cfg.chunkMax < 2 ^ 32 := by decide

theorem witness_PushConfigurationRegisterValues : State.reset.cfg = Config.push3 := rfl

theorem witness_AccessWidthAndAlignment :
    AccessWidth.half ≠ .word ∧ AccessWidth.byte ≠ .word ∧ (0x002#32).toNat % 4 ≠ 0 ∧
    oddPitch.legal = true ∧ ({ fresh with cfg := oddPitch, fb := [(5, 0xF3#8)] } : State).busy = false ∧
    oddPitch.fbLen % 4 ≠ 0 ∧ 1 < oddPitch.fbLen % 4 ∧ oddPitch.fbLen % 4 ≤ 2 ∧
    Memory.read [(5, 0xF3#8)] (oddPitch.fbLen - oddPitch.fbLen % 4 + 1) = some 0xF3#8 := by decide

/-- An unlisted REG offset, the first offset past REG, one past SRC, and one past FB. -/
theorem witness_UnmappedOffsetsGiveBusError :
    ∀ a ∈ [0x024#32, 0x0FC#32, 0x100#32, 0x00100010#32, 0x0020000C#32],
      a.toNat % 4 = 0 ∧
      a.toNat ∉ [0x000, 0x004, 0x008, 0x00C, 0x010, 0x014, 0x018, 0x01C, 0x020, 0x040, 0x044, 0x048,
        0x04C, 0x050, 0x054, 0x058, 0x05C, 0x060, 0x070, 0x074, 0x078, 0x07C] ∧
      ¬ (0x00100000 ≤ a.toNat ∧ a.toNat < 0x00100000 + 4 * (fresh.cfg.width * fresh.cfg.height)) ∧
      ¬ (0x00200000 ≤ a.toNat ∧ a.toNat < 0x00200000 + fresh.cfg.fbLen) := by
  have h : fresh.cfg.fbLen = 12 := by decide
  have h' : fresh.cfg.width * fresh.cfg.height = 4 := by decide
  rw [h, h']
  simp

theorem witness_FramebufferWindowIsReadOnly :
    built.cfg.legal = true ∧ ∀ a ∈ [0x00200000#32, 0x00200008#32, 0x0020000B#32],
      0x00200000 ≤ a.toNat ∧ a.toNat < 0x00200000 + built.cfg.fbLen := by
  have h : built.cfg.fbLen = 12 := by decide
  refine ⟨by decide, ?_⟩
  rw [h]
  simp

theorem witness_SourceEntryWriteAndRead :
    loaded.cfg.legal = true ∧ 0 < loaded.cfg.width * loaded.cfg.height ∧
    3 < loaded.cfg.width * loaded.cfg.height ∧ 2 ≠ 3 ∧ loaded.src.read 3 = some 0xFFFFFF#24 ∧
    fresh.src.read 3 = none := by decide

theorem witness_FramebufferWordIsLittleEndian :
    (built.cfg.legal = true ∧ built.busy = false ∧ 8 % 4 = 0 ∧ 8 < built.cfg.fbLen ∧
      8 + 3 < built.cfg.fbLen ∧ built.fb.read (8 + 3) = some 0x00#8) ∧
    (oddPitch.legal = true ∧ 4 % 4 = 0 ∧ 4 < oddPitch.fbLen ∧ oddPitch.fbLen ≤ 4 + 2) := by decide

theorem witness_BusyReadsRevealNothingOfFramebuffer : (inSending 1).busy = true := by decide

theorem witness_HostReadsHaveNoSideEffect :
    (pending built [.read .half 0x00200002#32]).cfg.legal = true ∧
    (pending built [.read .half 0x00200002#32]).inputs = .read .half 0x00200002#32 :: [] := by decide

theorem witness_HostTransactionsComplete :
    (pending built [.write .word 0x00200000#32 0#32]).cfg.legal = true ∧
    (pending built [.write .word 0x00200000#32 0#32]).inputs
      = .write .word 0x00200000#32 0#32 :: [] ∧
    (pending (inSending 2) [.waitIdle [], .answer .ok]).cfg.legal = true ∧
    (pending (inSending 2) [.waitIdle [], .answer .ok]).inputs = .waitIdle [] :: [.answer .ok] ∧
    (statusWord (inSending 2)).extractLsb' 3 1 = 1#1 ∧ (statusWord inComplete).extractLsb' 3 1 = 0#1 ∧
    (pending inFailed [.checkErr 2]).inputs = .checkErr 2 :: [] := by decide

theorem witness_ResetSetsEveryPieceOfState :
    (pending (inSending 1) [.reset]).cfg.legal = true ∧
    (pending (inSending 1) [.reset]).inputs = .reset :: [] := by decide

theorem witness_ResetAbandonsOutstandingWrite :
    (∀ s ∈ [inHeader, inSending 0, inSending 2, inHeaderSent, inComplete],
      (pending s [.reset]).cfg.legal = true ∧ (pending s [.reset]).inputs = .reset :: []) ∧
    inHeader.phase = .header ∧ (inSending 2).phase = .sending ∧ inHeaderSent.phase ≠ .header ∧
    inHeaderSent.phase ≠ .sending := by decide

theorem witness_DerivedParameters : 1 ≤ small.chunkMax ∧ small.legal = true := by decide

theorem witness_LegalConfigurationDomain :
    small.legal = true ∧ ({ small with width := 0 } : Config).legal = false ∧
    (pending { fresh with cfg := { small with key := [] } } []).cfg.legal = false := by decide

theorem witness_StepKeepsStateInvariant :
    (pending (inSending 2) [.answer .ok]).Inv ∧
    step (pending (inSending 2) [.answer .ok]) = .next (after (pending (inSending 2) [.answer .ok])) :=
  ⟨by constructor <;> decide, rfl⟩

/-- The entries of chunks 0 and 1 of P3 carry the bytes of the obfuscated framebuffer of V3. -/
theorem keyedFb_chunks : deliveredChunks small keyedFb 2 ((frameLog.take 3).drop 1) := by
  refine ⟨rfl, fun k e h => ?_⟩
  rcases k with _ | _ | k
  · cases h
    refine ⟨rfl, rfl, rfl, fun j b hj hr => ?_⟩
    have hj : j < 5 := hj
    interval_cases j <;> exact hr
  · cases h
    refine ⟨rfl, rfl, rfl, fun j b hj hr => ?_⟩
    have hj : j < 5 := hj
    interval_cases j <;> exact hr
  · cases h

theorem witness_StepKeepsFrameLog :
    (pending (inSending 2) [.answer .ok]).Inv ∧
    (pending (inSending 2) [.answer .ok]).FrameLogged keyedFb ∧
    step (pending (inSending 2) [.answer .ok]) = .next (after (pending (inSending 2) [.answer .ok])) :=
  ⟨by constructor <;> decide,
    ⟨fun h => absurd h (by decide), fun _ => rfl, fun _ => ⟨[], _, rfl, keyedFb_chunks⟩,
      fun h => absurd h (by decide), fun h => absurd h (by decide)⟩, rfl⟩

theorem witness_StepKeepsFramebufferProvenance :
    ((pending inHeaderSent [.enginePass]).Inv ∧ (pending inHeaderSent [.enginePass]).FbProvenance plainFb ∧
      step (pending inHeaderSent [.enginePass]) = .next (after (pending inHeaderSent [.enginePass]))) ∧
    ((pending built [cmdWrite 0x04000000#32]).FbProvenance plainFb ∧ built.busy = false ∧
      step (pending built [cmdWrite 0x04000000#32]) = .next (after (pending built [cmdWrite 0x04000000#32])) ∧
      (after (pending built [cmdWrite 0x04000000#32])).phase = .header) ∧
    ((pending (inSending 2) [.answer .ok]).FbProvenance plainFb ∧ (inSending 2).phase = .sending ∧
      (pending (inSending 2) [.answer .ok]).inputs.head? ≠ some .reset) :=
  ⟨⟨by constructor <;> decide, by constructor <;> decide, rfl⟩,
    ⟨by constructor <;> decide, by decide, rfl, rfl⟩, by constructor <;> decide, by decide, by decide⟩

theorem witness_PhaseChangesOnlyAsAllowed :
    (pending (inSending 2) [.reset]).Inv ∧
    step (pending (inSending 2) [.reset]) = .next (after (pending (inSending 2) [.reset])) ∧
    (inSending 2).phase ≠ .idle ∧ (after (pending (inSending 2) [.reset])).phase = .idle :=
  ⟨by constructor <;> decide, rfl, by decide, rfl⟩

theorem witness_TransportLogIsAppendOnly :
    step (pending inHeader [.answer .err]) = .next (after (pending inHeader [.answer .err])) := rfl

theorem witness_FbValidChangesOnlyAsAllowed :
    (step (pending loaded [cmdWrite 0x02000000#32])
        = .next (after (pending loaded [cmdWrite 0x02000000#32])) ∧
      loaded.fbValid = false ∧ (after (pending loaded [cmdWrite 0x02000000#32])).fbValid = true) ∧
    (∀ e ∈ [cmdWrite 0x03000000#32, cmdWrite 0x04000000#32, .reset],
      built.fbValid = true ∧ (after (pending built [e])).fbValid = false) ∧
    (after (pending { built with srcWidth := 3 } [cmdWrite 0x02000000#32])).fbValid = false :=
  ⟨⟨rfl, by decide⟩, by decide, by decide⟩

theorem witness_FramebufferChangesOnlyAsAllowed :
    step (pending inHeaderSent []) = .next (after (pending inHeaderSent [])) ∧
    (after (pending inHeaderSent [])).fb ≠ inHeaderSent.fb := ⟨rfl, by decide⟩

theorem witness_OtherStateChangesOnlyAsAllowed :
    (after (pending fresh [cmdWrite 0x01FF0000#32])).result ≠ fresh.result ∧
    (after (pending fresh [.write .word 0x0010000C#32 5#32])).src ≠ fresh.src ∧
    (after (pending fresh [.write .word 0x014#32 2#32])).srcWidth ≠ fresh.srcWidth ∧
    (after (pending fresh [.write .word 0x018#32 2#32])).srcHeight ≠ fresh.srcHeight ∧
    step (pending fresh [cmdWrite 0x01FF0000#32])
      = .next (after (pending fresh [cmdWrite 0x01FF0000#32])) :=
  ⟨by decide, by decide, by decide, by decide, rfl⟩

theorem witness_ErrorChangesOnlyAsAllowed :
    step (pending (inSending 1) [.answer .err]) = .next (after (pending (inSending 1) [.answer .err])) ∧
    (after (pending (inSending 1) [.answer .err])).error ≠ (inSending 1).error ∧
    (inSending 1).busy = true := ⟨rfl, by decide⟩

theorem witness_SourceLoadingNeverDisturbsFrame :
    ∀ a ∈ [0x014#32, 0x018#32, 0x00100000#32, 0x0010000C#32],
      (pending (inSending 1) [.write .word a 7#32]).cfg.legal = true ∧
      (a = 0x014#32 ∨ a = 0x018#32 ∨ (a.toNat % 4 = 0 ∧ 0x00100000 ≤ a.toNat ∧
        a.toNat < 0x00100000 + 4 * (small.width * small.height))) ∧
      (pending (inSending 1) [.write .word a 7#32]).inputs = .write .word a 7#32 :: [] := by
  have h : small.width * small.height = 4 := by decide
  rw [h]
  intro a ha
  refine ⟨rfl, ?_, rfl⟩
  simp only [List.mem_cons, List.not_mem_nil, or_false] at ha
  rcases ha with rfl | rfl | rfl | rfl <;> simp

theorem witness_LegalBlockNeverStops : (pending inFailed [.enginePass]).cfg.legal = true := by decide

theorem witness_RepeatedWrites :
    hostWrite .word 0x014#32 5#32 fresh = .next { fresh with srcWidth := 5 } ∧
    hostWrite .word 0x018#32 5#32 fresh = .next { fresh with srcHeight := 5 } ∧
    hostWrite .word 0x00100000#32 5#32 fresh = .next { fresh with src := [(0, 5#24)] } ∧
    exec (.pack 0 0 0) fresh = .next fresh ∧
    exec .build loaded = .next ((nextOf (exec .build loaded)).getD loaded) ∧
    (built.busy = false ∧ built.fbValid = true) ∧
    exec .send built = .next ((nextOf (exec .send built)).getD built) :=
  ⟨rfl, rfl, rfl, rfl, rfl, by decide, rfl⟩

theorem witness_HostCannotDisturbFrameInFlight :
    (pending (inSending 1) [cmdWrite 0x03000000#32]).busy = true ∧
    step (pending (inSending 1) [cmdWrite 0x03000000#32])
      = .next (after (pending (inSending 1) [cmdWrite 0x03000000#32])) ∧
    (pending (inSending 1) [cmdWrite 0x03000000#32]).inputs.head? = some (cmdWrite 0x03000000#32) ∧
    (cmdWrite 0x03000000#32).fromHost = true ∧ (Input.waitIdle []).fromHost = true :=
  ⟨by decide, rfl, rfl, rfl, rfl⟩

theorem witness_EngineEventsEndFrame :
    ((pending (inSending 2) [.answer .err]).Inv ∧ (pending (inSending 2) [.answer .err]).busy = true ∧
      (pending (inSending 2) [.answer .err]).inputs.head? = some (.answer .err) ∧
      step (pending (inSending 2) [.answer .err]) = .next (after (pending (inSending 2) [.answer .err])) ∧
      engineEvent (pending (inSending 2) [.answer .err]) (.answer .err)) ∧
    ((pending inHeaderSent [.answer .ok]).Inv ∧ (pending inHeaderSent [.answer .ok]).busy = true ∧
      (pending inHeaderSent [.answer .ok]).inputs.head? = some (.answer .ok) ∧
      step (pending inHeaderSent [.answer .ok]) = .next (after (pending inHeaderSent [.answer .ok])) ∧
      ¬ engineEvent (pending inHeaderSent [.answer .ok]) (.answer .ok)) := by
  refine ⟨⟨by constructor <;> decide, by decide, rfl, rfl, .inl ⟨.inr rfl, .err, rfl⟩⟩,
    ⟨by constructor <;> decide, by decide, rfl, rfl, ?_⟩⟩
  rintro (⟨h | h, _⟩ | ⟨_, h⟩) <;> cases h

end Sys2Proof.Tests
end

section
/-! The derived parameters (R9) and the legal configurations (R10): the two bounds that make `ceilDiv` the ceiling of
the quotient, what follows from legality, the values for Push3, and the refusal of every other configuration. -/

namespace Sys2Proof

/-! ### Ceiling division (R13) -/

/-- The ceiling is the least number of parts of size `b` that cover `a`. -/
theorem ceilDiv_le_iff {a b n : Nat} (hb : 1 ≤ b) : ceilDiv a b ≤ n ↔ a ≤ n * b := by
  have hdiv : ceilDiv a b ≤ n ↔ a + b - 1 ≤ b * n + (b - 1) := Nat.div_le_iff_le_mul_add_pred hb
  rw [hdiv, Nat.mul_comm b n]
  omega

theorem le_ceilDiv_mul (a : Nat) {b : Nat} (hb : 1 ≤ b) : a ≤ ceilDiv a b * b :=
  (ceilDiv_le_iff hb).1 le_rfl

theorem ceilDiv_mul_lt (a : Nat) {b : Nat} (hb : 1 ≤ b) : ceilDiv a b * b < a + b := by
  have hfloor : ceilDiv a b * b ≤ a + b - 1 := Nat.div_mul_le_self (a + b - 1) b
  omega

theorem one_le_ceilDiv {a b : Nat} (ha : 1 ≤ a) (hb : 1 ≤ b) : 1 ≤ ceilDiv a b := by
  by_contra hzero
  have hcover : a ≤ 0 * b := (ceilDiv_le_iff hb).1 (by omega)
  omega

/-! ### The derived parameters of a configuration (R9) -/

section Derived
variable (c : Config)

theorem Config.pitch_eq : c.pitch = 2 * c.width + c.pad := rfl

theorem Config.fbLen_eq : c.fbLen = c.height * c.pitch := rfl

variable {c}

/-- NCHUNKS chunks of CHUNK_MAX bytes are enough for the framebuffer. -/
theorem Config.fbLen_le_nchunks_mul (h : 1 ≤ c.chunkMax) : c.fbLen ≤ c.nchunks * c.chunkMax :=
  le_ceilDiv_mul c.fbLen h

/-- One chunk fewer than NCHUNKS is not enough. -/
theorem Config.nchunks_mul_lt (h : 1 ≤ c.chunkMax) : c.nchunks * c.chunkMax < c.fbLen + c.chunkMax :=
  ceilDiv_mul_lt c.fbLen h

end Derived

/-! ### The legal configurations (R10) -/

section Legal
variable {c : Config}

theorem Config.legal_iff : c.legal = true ↔
    (1 ≤ c.width ∧ 1 ≤ c.height ∧ 1 ≤ c.chunkMax ∧ c.width ≤ 65535 ∧ c.height ≤ 65535 ∧
      4 * c.width * c.height ≤ 0x100000 ∧ c.fbLen ≤ 0x100000 ∧ c.header.length = 16 ∧
      c.key.length = 4) := by
  simp only [Config.legal, Bool.and_eq_true, decide_eq_true_eq, and_assoc]

theorem Config.one_le_chunkMax_of_legal (h : c.legal = true) : 1 ≤ c.chunkMax := by
  obtain ⟨-, -, hchunk, -⟩ := Config.legal_iff.1 h
  exact hchunk

theorem Config.lengths_of_legal (h : c.legal = true) : c.header.length = 16 ∧ c.key.length = 4 := by
  obtain ⟨-, -, -, -, -, -, -, hheader, hkey⟩ := Config.legal_iff.1 h
  exact ⟨hheader, hkey⟩

/-- A legal framebuffer holds at least the two bytes of one pixel. -/
theorem Config.two_le_fbLen_of_legal (h : c.legal = true) : 2 ≤ c.fbLen := by
  obtain ⟨hwidth, hheight, -⟩ := Config.legal_iff.1 h
  have hpitch : 2 ≤ c.pitch := by rw [c.pitch_eq]; omega
  calc 2 = 1 * 2 := rfl
    _ ≤ c.height * c.pitch := Nat.mul_le_mul hheight hpitch

theorem Config.one_le_nchunks_of_legal (h : c.legal = true) : 1 ≤ c.nchunks :=
  one_le_ceilDiv (Nat.le_of_succ_le (Config.two_le_fbLen_of_legal h)) (Config.one_le_chunkMax_of_legal h)

/-- The step of a block outside the legal domain, beside `step_eq_of_legal`. -/
theorem Machine.step_eq_refused {s : Machine.State} (h : s.cfg.legal = false) :
    Machine.step s = .refused .configOutsideDomain := by
  simp [Machine.step, Machine.stepBlock, h]

end Legal

/-! ### The Push3 parameters (R8) -/

theorem Config.push3_pitch : Config.push3.pitch = 2048 := rfl

theorem Config.push3_fbLen : Config.push3.fbLen = 327680 := rfl

/-- The division is exact: 20 chunks of 16384 bytes are the whole framebuffer. -/
theorem Config.push3_nchunks : Config.push3.nchunks = 20 := by decide

theorem Config.push3_legal : Config.push3.legal = true := by decide

/-! ### The obligations -/

/-- Settles O44: `nchunks` is the ceiling by the two bounds of `ceilDiv`. -/
theorem derivedParameters : Obligations.DerivedParameters := by
  refine ⟨fun c => ⟨c.pitch_eq, c.fbLen_eq, fun hchunk => ?bounds, Config.lengths_of_legal⟩,
    Config.push3_pitch, Config.push3_fbLen, Config.push3_nchunks⟩
  case bounds => exact ⟨Config.nchunks_mul_lt hchunk, Config.fbLen_le_nchunks_mul hchunk⟩

/-- Settles O45: legality is its list of bounds, one pixel gives the least framebuffer, and a step tests legality
before anything else. -/
theorem legalConfigurationDomain : Obligations.LegalConfigurationDomain :=
  ⟨fun _ => Config.legal_iff,
    fun _ h => ⟨Config.two_le_fbLen_of_legal h, Config.one_le_nchunks_of_legal h⟩,
    fun _ h => Machine.step_eq_refused h, Config.push3_legal, rfl⟩

end Sys2Proof
end

section
/-! How the pair (PHASE, CHUNK_INDEX) moves (R33, R34): which of the Engine's steps an event enables and what each leaves
in the pair, the frame step every event but the reset makes, and the reset, which gives every piece of state its value
of R40. -/

namespace Sys2Proof

/-- Chunks hold at least one byte each, so a legal framebuffer has at most FB_LEN of them. -/
theorem Config.nchunks_le_of_legal {c : Config} (h : c.legal = true) : c.nchunks ≤ 0x100000 := by
  obtain ⟨-, -, hchunk, -, -, -, hfbLen, -⟩ := Config.legal_iff.1 h
  have hcover : c.nchunks ≤ c.fbLen := (ceilDiv_le_iff hchunk).2 (Nat.le_mul_of_pos_right _ hchunk)
  omega

namespace Machine

/-! ### The steps that an event enables (R41, R112) -/

/-- All that an answer of the Transport can do. -/
theorem transportAnswer_cases (a : Answer) (s : State) :
    (s.phase = .header ∧ transportAnswer a s = headerStep a s) ∨
    (s.phase = .sending ∧ transportAnswer a s = chunkStep a s) ∨
    (s.phase ≠ .header ∧ s.phase ≠ .sending ∧ transportAnswer a s = s) := by
  unfold transportAnswer
  cases s.phase <;> simp

/-- All that the Engine step without an answer can do. -/
theorem enginePass_cases (s : State) :
    (s.phase = .headerSent ∧ enginePass s = obfuscationStep s) ∨
    (s.phase ≠ .headerSent ∧ enginePass s = s) := by
  unfold enginePass
  cases s.phase <;> simp

/-! ### What the Engine's steps leave in PHASE and CHUNK_INDEX (R109 to R111) -/

@[simp] theorem headerStep_cfg (a : Answer) (s : State) : (headerStep a s).cfg = s.cfg := by
  cases a <;> rfl

@[simp] theorem headerStep_chunkIndex (a : Answer) (s : State) :
    (headerStep a s).chunkIndex = s.chunkIndex := by
  cases a <;> rfl

@[simp] theorem headerStep_ok_phase (s : State) : (headerStep .ok s).phase = .headerSent := rfl

@[simp] theorem headerStep_err_phase (s : State) : (headerStep .err s).phase = .failed := rfl

@[simp] theorem obfuscationStep_cfg (s : State) : (obfuscationStep s).cfg = s.cfg := rfl

@[simp] theorem obfuscationStep_phase (s : State) : (obfuscationStep s).phase = .sending := rfl

@[simp] theorem obfuscationStep_chunkIndex (s : State) : (obfuscationStep s).chunkIndex = 0#32 := rfl

@[simp] theorem chunkStep_cfg (a : Answer) (s : State) : (chunkStep a s).cfg = s.cfg := by
  cases a with
  | ok => simp only [chunkStep]; split <;> rfl
  | err => rfl

@[simp] theorem chunkStep_err_phase (s : State) : (chunkStep .err s).phase = .failed := rfl

@[simp] theorem chunkStep_err_chunkIndex (s : State) :
    (chunkStep .err s).chunkIndex = s.chunkIndex := rfl

section ChunkOk
variable {s : State}

theorem chunkStep_ok_last_phase (h : s.chunkIndex.toNat + 1 = s.cfg.nchunks) :
    (chunkStep .ok s).phase = .complete := by simp [chunkStep, h]

theorem chunkStep_ok_inner_phase (h : s.chunkIndex.toNat + 1 ≠ s.cfg.nchunks) :
    (chunkStep .ok s).phase = s.phase := by simp [chunkStep, h]

/-- An answered chunk advances CHUNK_INDEX by 1, the last chunk too. -/
theorem chunkStep_ok_chunkIndex :
    (chunkStep .ok s).chunkIndex = BitVec.ofNat 32 (s.chunkIndex.toNat + 1) := by
  simp only [chunkStep]
  split
  · next hlast => rw [hlast]; rfl
  · rfl

/-- There is no wrap-around: the next index is at most NCHUNKS, which fits CHUNK_INDEX. -/
theorem chunkStep_ok_chunkIndex_toNat (hl : s.cfg.legal = true)
    (hi : s.chunkIndex.toNat < s.cfg.nchunks) :
    (chunkStep .ok s).chunkIndex.toNat = s.chunkIndex.toNat + 1 := by
  have hn := Config.nchunks_le_of_legal hl
  rw [chunkStep_ok_chunkIndex, BitVec.toNat_ofNat, Nat.mod_eq_of_lt (by omega)]

end ChunkOk

/-! ### The reset input (R138, R40) -/

@[simp] theorem abandonWrite_cfg (s : State) : (abandonWrite s).cfg = s.cfg := by
  unfold abandonWrite
  split <;> rfl

@[simp] theorem applyReset_cfg (s : State) : (applyReset s).cfg = s.cfg := abandonWrite_cfg s
@[simp] theorem applyReset_phase (s : State) : (applyReset s).phase = .idle := rfl
@[simp] theorem applyReset_busy (s : State) : (applyReset s).busy = false := rfl
@[simp] theorem applyReset_fbValid (s : State) : (applyReset s).fbValid = false := rfl
@[simp] theorem applyReset_error (s : State) : (applyReset s).error = ⟨.noError, false⟩ := rfl
@[simp] theorem applyReset_result (s : State) : (applyReset s).result = 0#16 := rfl
@[simp] theorem applyReset_srcWidth (s : State) : (applyReset s).srcWidth = 0#16 := rfl
@[simp] theorem applyReset_srcHeight (s : State) : (applyReset s).srcHeight = 0#16 := rfl
@[simp] theorem applyReset_bytesSent (s : State) : (applyReset s).bytesSent = 0#32 := rfl
@[simp] theorem applyReset_chunkIndex (s : State) : (applyReset s).chunkIndex = 0#32 := rfl
@[simp] theorem applyReset_src (s : State) : (applyReset s).src = [] := rfl
@[simp] theorem applyReset_fb (s : State) : (applyReset s).fb = [] := rfl

/-- With no frame in flight no write is outstanding (R41). -/
theorem outstandingWrite_of_not_busy {s : State} (h : s.busy = false) : outstandingWrite s = none := by
  unfold outstandingWrite
  rcases (busy_false_iff s).1 h with hp | hp | hp <;> rw [hp]

/-- The step that a pending reset event makes. -/
theorem step_of_reset {s : State} {rest : List Input} (hl : s.cfg.legal = true)
    (hi : s.inputs = .reset :: rest) : step s = .next (applyReset (dropInput s)) := by
  rw [step_eq_of_legal hl, takeInput, hi]
  rfl

/-! ### Frame steps (R33) -/

/-- What every event but the reset does to a frame: PHASE and CHUNK_INDEX change as R33 allows, IDLE is not entered, and
the parameters stay. -/
structure FrameStep (s t : State) : Prop where
  cfg_eq : t.cfg = s.cfg
  allowed : phaseStep s t
  idle_kept : t.phase = .idle → s.phase = .idle

section FrameSteps
variable {s t : State}

theorem frameStep_of_same (hcfg : t.cfg = s.cfg) (hphase : t.phase = s.phase)
    (hindex : t.chunkIndex = s.chunkIndex) : FrameStep s t where
  cfg_eq := hcfg
  allowed := .inl ⟨hphase, congrArg BitVec.toNat hindex⟩
  idle_kept h := hphase ▸ h

theorem frameStep_refl (s : State) : FrameStep s s := frameStep_of_same rfl rfl rfl

/-- Of the commands only an accepted SEND moves the pair: from IDLE, COMPLETE or FAILED to HEADER. -/
theorem issueCommand_frameStep {w : Word} (h : issueCommand w s = .next t) : FrameStep s t := by
  rcases issueCommand_cases h with ⟨code, rfl⟩ | ⟨-, r, g, b, -, rfl⟩ | ⟨-, -, -, rfl⟩ |
    ⟨-, -, -, rfl⟩ | ⟨-, -, rfl⟩ | ⟨hbusy, -, -, rfl⟩
  case inr.inr.inr.inr.inr =>
    exact ⟨rfl, .inr (.inl ⟨(busy_false_iff s).1 hbusy, rfl, rfl⟩), fun hidle => by cases hidle⟩
  all_goals exact frameStep_of_same rfl rfl rfl

theorem hostWrite_frameStep {width : AccessWidth} {addr v : Word}
    (h : hostWrite width addr v s = .next t) : FrameStep s t := by
  obtain ⟨-, ⟨-, hcmd⟩ | ⟨-, rfl⟩ | ⟨-, rfl⟩ | ⟨j, -, -, rfl⟩ | ⟨-, rfl⟩⟩ := hostWrite_cases h
  · exact issueCommand_frameStep hcmd
  all_goals exact frameStep_of_same rfl rfl rfl

/-- The response of a host transaction is no part of the frame. -/
theorem FrameStep.respond {r : Response} (h : FrameStep s t) : FrameStep s (respond r t) :=
  ⟨h.cfg_eq, h.allowed, h.idle_kept⟩

theorem writeTransaction_frameStep {width : AccessWidth} {addr v : Word}
    (h : writeTransaction width addr v s = .next t) : FrameStep s t := by
  rcases writeTransaction_cases width addr v s with ⟨u, hwrite, hnext⟩ | ⟨-, hnext⟩ <;>
    cases hnext.symm.trans h
  · exact (hostWrite_frameStep hwrite).respond
  · exact (frameStep_refl s).respond

theorem headerStep_frameStep (a : Answer) (hp : s.phase = .header) : FrameStep s (headerStep a s) where
  cfg_eq := headerStep_cfg a s
  allowed := by
    have hnext : (headerStep a s).phase = .headerSent ∨ (headerStep a s).phase = .failed := by
      cases a <;> simp
    exact .inr (.inr (.inl ⟨hp, hnext, by simp⟩))
  idle_kept h := by cases a <;> simp at h

theorem obfuscationStep_frameStep (hp : s.phase = .headerSent) : FrameStep s (obfuscationStep s) where
  cfg_eq := rfl
  allowed := .inr (.inr (.inr (.inl ⟨hp, rfl, rfl⟩)))
  idle_kept h := by simp at h

theorem chunkStep_frameStep (a : Answer) (hl : s.cfg.legal = true) (hp : s.phase = .sending)
    (hi : s.chunkIndex.toNat < s.cfg.nchunks) : FrameStep s (chunkStep a s) := by
  cases a with
  | err =>
    exact ⟨rfl, .inr (.inr (.inr (.inr (.inr (.inr (.inl ⟨hp, rfl, rfl⟩)))))), fun h => by simp at h⟩
  | ok =>
    have hindex := chunkStep_ok_chunkIndex_toNat hl hi
    by_cases hlast : s.chunkIndex.toNat + 1 = s.cfg.nchunks
    · have hphase := chunkStep_ok_last_phase hlast
      refine ⟨by simp, ?_, fun h => by simp [hphase] at h⟩
      exact .inr (.inr (.inr (.inr (.inr (.inl ⟨hp, hlast, hphase, hindex.trans hlast⟩)))))
    · have hphase := (chunkStep_ok_inner_phase hlast).trans hp
      refine ⟨by simp, ?_, fun h => by simp [hphase] at h⟩
      exact .inr (.inr (.inr (.inr (.inl ⟨hp, by omega, hphase, hindex⟩))))

theorem transportAnswer_frameStep (a : Answer) (hl : s.cfg.legal = true)
    (hi : s.phase = .sending → s.chunkIndex.toNat < s.cfg.nchunks) :
    FrameStep s (transportAnswer a s) := by
  rcases transportAnswer_cases a s with ⟨hp, he⟩ | ⟨hp, he⟩ | ⟨-, -, he⟩ <;> rw [he]
  · exact headerStep_frameStep a hp
  · exact chunkStep_frameStep a hl hp (hi hp)
  · exact frameStep_refl s

theorem enginePass_frameStep (s : State) : FrameStep s (enginePass s) := by
  rcases enginePass_cases s with ⟨hp, he⟩ | ⟨-, he⟩ <;> rw [he]
  · exact obfuscationStep_frameStep hp
  · exact frameStep_refl s

/-- Taking an event off the schedule is no part of the frame. -/
theorem FrameStep.of_dropInput (h : FrameStep (dropInput s) t) : FrameStep s t :=
  ⟨h.cfg_eq, h.allowed, h.idle_kept⟩

/-- Every step of the block is a frame step, or the reset. -/
theorem step_frameStep (hi : s.phase = .sending → s.chunkIndex.toNat < s.cfg.nchunks)
    (h : step s = .next t) :
    FrameStep s t ∨ (s.inputs.head? = some .reset ∧ t = applyReset (dropInput s)) := by
  obtain ⟨hl, ⟨-, rfl⟩ | ⟨-, -, -, -, ins, log, drawn, found, rfl⟩ | ⟨width, addr, v, -, hwrite⟩ |
    ⟨a, -, rfl⟩ | ⟨-, rfl⟩ | hreset⟩ := step_cases_reads h
  · exact .inl (enginePass_frameStep s)
  · exact .inl (frameStep_of_same rfl rfl rfl)
  · exact .inl (writeTransaction_frameStep hwrite).of_dropInput
  · exact .inl (transportAnswer_frameStep (s := dropInput s) a hl hi).of_dropInput
  · exact .inl (enginePass_frameStep (dropInput s)).of_dropInput
  · exact .inr hreset

theorem phaseStep_of_reset (s : State) : phaseStep s (applyReset (dropInput s)) :=
  .inr (.inr (.inr (.inr (.inr (.inr (.inr ⟨rfl, rfl⟩))))))

/-- In every phase CHUNK_INDEX is at most NCHUNKS (R34). -/
theorem State.Inv.chunkIndex_le (h : s.Inv) : s.chunkIndex.toNat ≤ s.cfg.nchunks := by
  have hearly (hp : s.phase = .idle ∨ s.phase = .header ∨ s.phase = .headerSent) :
      s.chunkIndex.toNat ≤ s.cfg.nchunks := by
    simp [(h.early_progress hp).1]
  cases hp : s.phase with
  | idle => exact hearly (.inl hp)
  | header => exact hearly (.inr (.inl hp))
  | headerSent => exact hearly (.inr (.inr hp))
  | sending => exact (h.sending_progress hp).1.le
  | complete => exact (h.complete_progress hp).1.le
  | failed => exact (h.failed_progress hp).1.le

/-- No change that R33 allows takes CHUNK_INDEX past NCHUNKS. -/
theorem chunkIndex_le_of_phaseStep (h : phaseStep s t) (hi : s.chunkIndex.toNat ≤ s.cfg.nchunks) :
    t.chunkIndex.toNat ≤ s.cfg.nchunks := by
  rcases h with ⟨-, hj⟩ | ⟨-, -, hj⟩ | ⟨-, -, hj⟩ | ⟨-, -, hj⟩ | ⟨-, hlt, -, hj⟩ | ⟨-, -, -, hj⟩ |
    ⟨-, -, hj⟩ | ⟨-, hj⟩ <;> omega

end FrameSteps

/-! ### The obligations -/

/-- Settles O50: every event but the reset makes a frame step, and the bound on CHUNK_INDEX follows from the allowed
changes. -/
theorem phaseChangesOnlyAsAllowed : Obligations.PhaseChangesOnlyAsAllowed := by
  intro s t hinv hstep
  rcases step_frameStep (fun hp => (hinv.sending_progress hp).1) hstep with hframe | ⟨hreset, rfl⟩
  · refine ⟨hframe.allowed, fun hs ht => absurd (hframe.idle_kept ht) hs, ?_⟩
    rw [hframe.cfg_eq]
    exact chunkIndex_le_of_phaseStep hframe.allowed hinv.chunkIndex_le
  · exact ⟨phaseStep_of_reset s, fun _ _ => hreset, by simp⟩

/-- Settles O40: the step is `applyReset`, whose fields are those of R40. -/
theorem resetSetsEveryPieceOfState : Obligations.ResetSetsEveryPieceOfState := by
  intro s rest hl hi
  have hquiet : outstandingWrite (applyReset (dropInput s)) = none :=
    outstandingWrite_of_not_busy (applyReset_busy _)
  exact ⟨applyReset (dropInput s), step_of_reset hl hi, by simp [hquiet]⟩

end Machine

end Sys2Proof
end

section
/-! The host port's memory windows: which accesses the address map admits (R48, R49), how the byte lanes of an FB word
read (R46, R52), and what a SRC entry stores and reads (R51). -/

namespace Sys2Proof

/-- The SRC window ends at or before the FB window begins (R10, R48). -/
theorem Config.four_mul_pixels_le_of_legal {c : Config} (h : c.legal = true) :
    4 * c.pixels ≤ 0x100000 := by
  obtain ⟨-, -, -, -, -, hpixels, -⟩ := Config.legal_iff.1 h
  rwa [Nat.mul_assoc] at hpixels

theorem Config.fbLen_le_of_legal {c : Config} (h : c.legal = true) : c.fbLen ≤ 0x100000 := by
  obtain ⟨-, -, -, -, -, -, hfbLen, -⟩ := Config.legal_iff.1 h
  exact hfbLen

namespace Machine

/-! ### The address map (R48 to R50) -/

section AddressMap
variable {c : Config}

theorem mapOffset_src {j : Nat} (hj : j < c.pixels) : mapOffset c (srcBase + 4 * j) = some (.src j) := by
  have hreg : ¬ srcBase + 4 * j < 0x100 := by unfold srcBase; omega
  have hentry : (srcBase + 4 * j - srcBase) / 4 = j := by omega
  rw [mapOffset, if_neg hreg, if_pos ⟨by omega, by omega⟩, hentry]

/-- Legality keeps the SRC entries below the FB window, so they do not shadow it. -/
theorem mapOffset_fb {i : Nat} (hl : c.legal = true) (hi : i < c.fbLen) :
    mapOffset c (fbBase + i) = some (.fb i) := by
  have hpixels := Config.four_mul_pixels_le_of_legal hl
  have hreg : ¬ fbBase + i < 0x100 := by unfold fbBase; omega
  have hsrc : ¬ (srcBase ≤ fbBase + i ∧ fbBase + i < srcBase + 4 * c.pixels) := by
    unfold srcBase fbBase; omega
  rw [mapOffset, if_neg hreg, if_neg hsrc, if_pos ⟨by omega, by omega⟩, Nat.add_sub_cancel_left]

/-- R49: an access of another width, or off the word grid, names nothing. -/
theorem accessTarget_error_of_not_word {width : AccessWidth} {addr : Word} (c : Config)
    (h : width ≠ .word ∨ addr.toNat % 4 ≠ 0) : ∃ f, accessTarget c width addr = .error f := by
  unfold accessTarget
  by_cases hwidth : width = .word
  · have halign : addr.toNat % 4 ≠ 0 := h.resolve_left (not_not_intro hwidth)
    exact ⟨.misaligned, by rw [if_neg (not_not_intro hwidth), if_pos halign]⟩
  · exact ⟨.accessWidth, if_pos hwidth⟩

theorem accessTarget_of_mapOffset {addr : Word} {t : Target} (halign : addr.toNat % 4 = 0)
    (hmap : mapOffset c addr.toNat = some t) : accessTarget c .word addr = .ok t := by
  simp [accessTarget, halign, hmap]

theorem accessTarget_src {j : Nat} (hl : c.legal = true) (hj : j < c.pixels) :
    accessTarget c .word (BitVec.ofNat 32 (srcBase + 4 * j)) = .ok (.src j) := by
  have hpixels := Config.four_mul_pixels_le_of_legal hl
  have haddr : (BitVec.ofNat 32 (srcBase + 4 * j)).toNat = srcBase + 4 * j :=
    Nat.mod_eq_of_lt (by unfold srcBase; omega)
  refine accessTarget_of_mapOffset ?_ (by rw [haddr, mapOffset_src hj])
  rw [haddr, Nat.add_mul_mod_self_left]
  rfl

theorem accessTarget_fb {addr : Word} {i : Nat} (hl : c.legal = true) (hi : i < c.fbLen)
    (halign : i % 4 = 0) (haddr : addr.toNat = fbBase + i) :
    accessTarget c .word addr = .ok (.fb i) := by
  refine accessTarget_of_mapOffset ?_ (by rw [haddr, mapOffset_fb hl hi])
  rw [haddr]
  unfold fbBase
  omega

end AddressMap

/-! ### How an access completes (R45) -/

section Completion
variable {s : State} {width : AccessWidth} {addr v : Word}

theorem hostRead_of_target {t : Target} (h : accessTarget s.cfg width addr = .ok t) :
    hostRead width addr s = .ok (readTarget s t) := by rw [hostRead, h]

theorem hostRead_of_error {f : Fault} (h : accessTarget s.cfg width addr = .error f) :
    hostRead width addr s = .error f := by rw [hostRead, h]

theorem hostWrite_of_error {f : Fault} (h : accessTarget s.cfg width addr = .error f) :
    hostWrite width addr v s = .fault f := by rw [hostWrite, h]

theorem hostWrite_of_src {j : Nat} (h : accessTarget s.cfg width addr = .ok (.src j)) :
    hostWrite width addr v s = .next (writeSrc j v s) := by rw [hostWrite, h]

/-- R54: FB takes no write from the Host. -/
theorem hostWrite_of_fb {i : Nat} (h : accessTarget s.cfg width addr = .ok (.fb i)) :
    hostWrite width addr v s = .fault .fbWrite := by rw [hostWrite, h]

theorem readTransaction_of_error {f : Fault} (h : hostRead width addr s = .error f) :
    readTransaction width addr s = respond .busError s := by rw [readTransaction, h]

theorem writeTransaction_of_fault {f : Fault} (h : hostWrite width addr v s = .fault f) :
    writeTransaction width addr v s = .next (respond .busError s) := by rw [writeTransaction, h]

end Completion

/-! ### The byte lanes of an FB word (R46, R49, R52) -/

section Lanes

/-- Byte lane `k` of a little-endian word is its byte `k`. -/
theorem extractLsb'_wordOfBytes (f : Nat → Byte) {k : Nat} (hk : k < 4) :
    (wordOfBytes (f 0) (f 1) (f 2) (f 3)).extractLsb' (8 * k) 8 = f k := by
  unfold wordOfBytes
  interval_cases k <;> simp only [BitVec.extractLsb'_append_eq_ite] <;> simp

theorem fbLane_past {s : State} {i k : Nat} (h : s.cfg.fbLen ≤ i + k) : fbLane s i k = 0#8 := if_pos h

theorem fbLane_known {s : State} {i k : Nat} {b : Byte} (h : i + k < s.cfg.fbLen)
    (hb : s.fb.read (i + k) = some b) : fbLane s i k = b := by
  rw [fbLane, if_neg (by omega), fbByteOrDraw, hb, Option.getD_some]

theorem readFb_lane {s : State} {k : Nat} (i : Nat) (hb : s.busy = false) (hk : k < 4) :
    (readFb s i).value.extractLsb' (8 * k) 8 = fbLane s i k := by
  simp only [readFb, hb]
  exact extractLsb'_wordOfBytes (fbLane s i) hk

end Lanes

/-! ### The entries of SRC (R51) -/

section Source
variable {s : State} {j : Nat}

theorem readSrc_known {p : Rgb} (h : s.src.read j = some p) : readSrc s j = ⟨0#8 ++ p, 0⟩ := by
  have hzext : p.setWidth 32 = 0#8 ++ p := BitVec.setWidth_eq_append (by decide)
  rw [readSrc, h, ← hzext]

/-- Whatever is drawn for an UNKNOWN entry has 24 bits. -/
theorem readSrc_unknown_high (h : s.src.read j = none) :
    (readSrc s j).value.extractLsb' 24 8 = 0#8 := by
  rw [readSrc, h]
  ext k hk
  simp

end Source

/-! ### The obligations -/

/-- Settles O31: such an access names no target, and the last word's lanes are those of `fbLane`. -/
theorem accessWidthAndAlignment : Obligations.AccessWidthAndAlignment := by
  constructor
  · intro s width addr v hbad
    obtain ⟨f, hf⟩ := accessTarget_error_of_not_word s.cfg hbad
    exact ⟨readTransaction_of_error (hostRead_of_error hf),
      writeTransaction_of_fault (hostWrite_of_error hf)⟩
  · intro s hl hbusy hpartial
    have hlen := Config.fbLen_le_of_legal hl
    have htarget := accessTarget_fb (c := s.cfg) hl (i := s.cfg.fbLen - s.cfg.fbLen % 4)
      (addr := BitVec.ofNat 32 (0x00200000 + s.cfg.fbLen - s.cfg.fbLen % 4))
      (by omega) (by omega)
      (by rw [BitVec.toNat_ofNat]; unfold fbBase; omega)
    refine ⟨_, hostRead_of_target htarget, fun k hk b hb => ?_, fun k hk hpast => ?_⟩
    · exact (readFb_lane _ hbusy (by omega)).trans (fbLane_known (by omega) hb)
    · exact (readFb_lane _ hbusy hk).trans (fbLane_past (by omega))

/-- Settles O33: a write there is either no aligned 32-bit access, or names an FB word. -/
theorem framebufferWindowIsReadOnly : Obligations.FramebufferWindowIsReadOnly := by
  intro s width addr v hl hlow hhigh
  by_cases hbad : width ≠ .word ∨ addr.toNat % 4 ≠ 0
  · obtain ⟨f, hf⟩ := accessTarget_error_of_not_word s.cfg hbad
    exact writeTransaction_of_fault (hostWrite_of_error hf)
  · obtain ⟨rfl, halign⟩ : width = .word ∧ addr.toNat % 4 = 0 := by simpa using hbad
    have htarget := accessTarget_fb (c := s.cfg) hl (i := addr.toNat - fbBase) (addr := addr)
      (by unfold fbBase; omega) (by unfold fbBase; omega) (by unfold fbBase; omega)
    exact writeTransaction_of_fault (hostWrite_of_fb htarget)

/-- Settles O34: the write is `writeSrc`, and the entry then reads as a known one. -/
theorem sourceEntryWriteAndRead : Obligations.SourceEntryWriteAndRead := by
  intro s j v hl hj addr
  have htarget : accessTarget s.cfg .word addr = .ok (.src j) := accessTarget_src hl hj
  have hread (t : State) (hcfg : t.cfg = s.cfg) : hostRead .word addr t = .ok (readSrc t j) :=
    hostRead_of_target (hcfg ▸ htarget)
  have hstored : (writeSrc j v s).src.read j = some (v.extractLsb' 0 24) :=
    Memory.read_write_same s.src j _
  refine ⟨⟨writeSrc j v s, hostWrite_of_src htarget, rfl, ?readBack, hstored, ?others⟩, ?known, ?unknown⟩
  case readBack => rw [hread (writeSrc j v s) rfl, readSrc_known hstored]
  case others => exact fun k hk => Memory.read_write_other s.src _ hk
  case known => exact fun p hp => by rw [hread s rfl, readSrc_known hp]
  case unknown => exact fun hnone => ⟨_, hread s rfl, readSrc_unknown_high hnone⟩

end Machine

end Sys2Proof
end

section
/-! The pixel codec and PACK (40_pixel_codec.md): the packed pixel as three fields, one per channel; how many inputs share
an output; PACK's word, its two outcomes, and how RESULT reads. -/

namespace Sys2Proof

/-! ### PACK's word (R70, R72, R76) -/

/-- The assembled word is the opcode and the three channels, side by side. -/
theorem encode_pack_eq_append (r g b : Byte) : encode (.pack r g b) = 0x01#8 ++ r ++ g ++ b := by
  have happend : (0x01#8 ++ r ++ g ++ b).setWidth 32 = encode (.pack r g b) :=
    BitVec.setWidth_append_append_append_eq_shiftLeft_setWidth_or
  rw [← happend, BitVec.setWidth_eq]

/-- The opcode tells a PACK word from every other, and the three fields are its operands. -/
theorem decode_pack_word (r g b : Byte) : decode (0x01#8 ++ r ++ g ++ b) = .ok (.pack r g b) := by
  have hopcode : (0x01#8 ++ r ++ g ++ b : Word) &&& 0xFF000000#32 = 0x01000000#32 := by
    rw [← encode_pack_eq_append]
    exact Laws.TableRow.pack r g b
  have hred : fieldA (0x01#8 ++ r ++ g ++ b) = r := by
    rw [fieldA, BitVec.extractLsb'_append_eq_of_le (by decide),
      BitVec.extractLsb'_append_eq_of_le (by decide), BitVec.extractLsb'_append_eq_right]
  have hgreen : fieldB (0x01#8 ++ r ++ g ++ b) = g := by
    rw [fieldB, BitVec.extractLsb'_append_eq_of_le (by decide), BitVec.extractLsb'_append_eq_right]
  have hblue : fieldC (0x01#8 ++ r ++ g ++ b) = b := BitVec.extractLsb'_append_eq_right
  rw [decode, if_pos hopcode, hred, hgreen, hblue]

namespace Machine

/-! ### The codec's fields (R79) -/

/-- A shift and a mask of ones in the codec's formula take `n` bits of a channel, from bit `k` on. -/
theorem shift_mask_eq_extract (c : Byte) (k : Nat) {n : Nat} {m : Packed} (hm : m.toNat = 2 ^ n - 1) :
    (c.setWidth 16 >>> k) &&& m = (c.extractLsb' k n).setWidth 16 := by
  apply BitVec.eq_of_toNat_eq
  have hbits : (c.toNat >>> k) % 2 ^ n ≤ c.toNat := (Nat.mod_le _ _).trans (Nat.shiftRight_le _ _)
  rw [BitVec.toNat_and, BitVec.toNat_ushiftRight, BitVec.toNat_setWidth_of_le (by decide), hm,
    Nat.and_two_pow_sub_one_eq_mod, BitVec.toNat_setWidth, BitVec.extractLsb'_toNat,
    Nat.mod_eq_of_lt (b := 2 ^ 16) (by omega)]

/-- The field form: five bits of red, six of green, five of blue. -/
theorem encode565_eq_append (r g b : Byte) :
    encode565 r g b = r.extractLsb' 3 5 ++ g.extractLsb' 2 6 ++ b.extractLsb' 3 5 := by
  rw [encode565, shift_mask_eq_extract r 3 (n := 5) (by decide),
    shift_mask_eq_extract g 2 (n := 6) (by decide), shift_mask_eq_extract b 3 (n := 5) (by decide)]
  have happend := BitVec.setWidth_append_append_eq_shiftLeft_setWidth_or (w''' := 16)
    (b := r.extractLsb' 3 5) (b' := g.extractLsb' 2 6) (b'' := b.extractLsb' 3 5)
  exact happend.symm.trans (BitVec.setWidth_eq _)

theorem encode565_red (r g b : Byte) : (encode565 r g b).extractLsb' 11 5 = r.extractLsb' 3 5 := by
  rw [encode565_eq_append, BitVec.extractLsb'_append_eq_of_le (by decide),
    BitVec.extractLsb'_append_eq_of_le (by decide), BitVec.extractLsb'_eq_self]

theorem encode565_green (r g b : Byte) : (encode565 r g b).extractLsb' 5 6 = g.extractLsb' 2 6 := by
  rw [encode565_eq_append, BitVec.extractLsb'_append_eq_of_le (by decide),
    BitVec.extractLsb'_append_eq_right]

theorem encode565_blue (r g b : Byte) : (encode565 r g b).extractLsb' 0 5 = b.extractLsb' 3 5 := by
  rw [encode565_eq_append, BitVec.extractLsb'_append_eq_right]

/-- The codec gives `p` exactly when each channel's kept bits are the field of `p` that holds them. -/
theorem encode565_eq_iff {r g b : Byte} {p : Packed} :
    encode565 r g b = p ↔ r.extractLsb' 3 5 = p.extractLsb' 11 5 ∧
      g.extractLsb' 2 6 = p.extractLsb' 5 6 ∧ b.extractLsb' 3 5 = p.extractLsb' 0 5 := by
  constructor
  · rintro rfl
    exact ⟨(encode565_red r g b).symm, (encode565_green r g b).symm, (encode565_blue r g b).symm⟩
  · rintro ⟨hred, hgreen, hblue⟩
    rw [encode565_eq_append, hred, hgreen, hblue,
      BitVec.extractLsb'_append_extractLsb'_eq_extractLsb' (by decide),
      BitVec.extractLsb'_append_extractLsb'_eq_extractLsb' (by decide)]
    exact BitVec.extractLsb'_eq_self

/-! ### The codec's formula in numbers (R79) -/

/-- One channel's term of the formula: no bit is lost where the mask, shifted, fits the packed pixel. -/
theorem toNat_shift_mask_shift (c : Byte) (k n : Nat) {m : Packed} (hfit : m.toNat <<< n < 2 ^ 16) :
    (((c.setWidth 16 >>> k) &&& m) <<< n).toNat = (c.toNat >>> k &&& m.toNat) <<< n := by
  have hle : (c.toNat >>> k &&& m.toNat) <<< n ≤ m.toNat <<< n := by
    simpa only [Nat.shiftLeft_eq] using Nat.mul_le_mul_right (2 ^ n) Nat.and_le_right
  rw [BitVec.toNat_shiftLeft, BitVec.toNat_and, BitVec.toNat_ushiftRight,
    BitVec.toNat_setWidth_of_le (by decide), Nat.mod_eq_of_lt (hle.trans_lt hfit)]

theorem toNat_encode565 (r g b : Byte) :
    (encode565 r g b).toNat =
      (r.toNat >>> 3 &&& 0x1F) <<< 11 ||| (g.toNat >>> 2 &&& 0x3F) <<< 5 ||| (b.toNat >>> 3 &&& 0x1F) := by
  have hred := toNat_shift_mask_shift r 3 11 (m := 0x1F#16) (by decide)
  have hgreen := toNat_shift_mask_shift g 2 5 (m := 0x3F#16) (by decide)
  have hblue := toNat_shift_mask_shift b 3 0 (m := 0x1F#16) (by decide)
  rw [BitVec.shiftLeft_zero] at hblue
  rw [encode565, BitVec.toNat_or, BitVec.toNat_or, hred, hgreen, hblue]
  rfl

/-! ### How many inputs share an output (R84) -/

section Fibres
variable {k n : Nat}

/-- The high `n` bits of a channel are its quotient by `2 ^ k`. -/
theorem channel_high_bits_eq_iff (hkn : k + n = 8) (c : Fin 256) (q : BitVec n) :
    (BitVec.ofFin c : Byte).extractLsb' k n = q ↔ c.val / 2 ^ k = q.toNat := by
  have hwidth : 2 ^ k * 2 ^ n = 256 := by rw [← Nat.pow_add, hkn]
  have hlt : c.val / 2 ^ k < 2 ^ n := Nat.div_lt_of_lt_mul (c.isLt.trans_eq hwidth.symm)
  rw [BitVec.toNat_eq, BitVec.extractLsb'_toNat, Nat.shiftRight_eq_div_pow, BitVec.toNat_ofFin,
    Nat.mod_eq_of_lt hlt]

/-- Fixing the high bits of a channel leaves its `k` low bits free: the channels are an interval of that length. -/
theorem card_channel_high_bits_eq (hkn : k + n = 8) (q : BitVec n) :
    (Finset.univ.filter fun c : Fin 256 => (BitVec.ofFin c : Byte).extractLsb' k n = q).card = 2 ^ k := by
  have hpos : 0 < 2 ^ k := Nat.two_pow_pos k
  have hend : q.toNat * 2 ^ k + 2 ^ k ≤ 256 :=
    calc q.toNat * 2 ^ k + 2 ^ k = (q.toNat + 1) * 2 ^ k := (Nat.succ_mul _ _).symm
      _ ≤ 2 ^ n * 2 ^ k := Nat.mul_le_mul_right _ q.isLt
      _ = 256 := by rw [← Nat.pow_add, Nat.add_comm, hkn]
  have hinterval : (Finset.univ.filter fun c : Fin 256 => (BitVec.ofFin c : Byte).extractLsb' k n = q) =
      Finset.Icc ⟨q.toNat * 2 ^ k, by omega⟩ ⟨q.toNat * 2 ^ k + 2 ^ k - 1, by omega⟩ := by
    ext c
    rw [Finset.mem_filter_univ, channel_high_bits_eq_iff hkn, Nat.div_eq_iff hpos, Finset.mem_Icc,
      Fin.le_def, Fin.le_def]
  rw [hinterval, Fin.card_Icc]
  dsimp only
  omega

/-- The inputs of one output are every choice of one channel each from three independent sets. -/
theorem codec_fibre_eq_product (p : Packed) :
    (Finset.univ.filter fun t : Fin 256 × Fin 256 × Fin 256 =>
      encode565 (BitVec.ofFin t.1) (BitVec.ofFin t.2.1) (BitVec.ofFin t.2.2) = p) =
    (Finset.univ.filter fun c : Fin 256 => (BitVec.ofFin c : Byte).extractLsb' 3 5 = p.extractLsb' 11 5) ×ˢ
    (Finset.univ.filter fun c : Fin 256 => (BitVec.ofFin c : Byte).extractLsb' 2 6 = p.extractLsb' 5 6) ×ˢ
    (Finset.univ.filter fun c : Fin 256 => (BitVec.ofFin c : Byte).extractLsb' 3 5 = p.extractLsb' 0 5) := by
  ext t
  simp only [Finset.mem_filter_univ, Finset.mem_product, encode565_eq_iff]

end Fibres

/-! ### What PACK does, and how RESULT reads (R80, R27) -/

section Pack
variable {s : State}

theorem exec_pack_of_busy (r g b : Byte) (h : s.busy = true) :
    exec (.pack r g b) s = .next (raiseError .busy s) := if_pos h

theorem exec_pack_of_not_busy (r g b : Byte) (h : s.busy = false) :
    exec (.pack r g b) s = .next (reportNone { s with result := encode565 r g b }) :=
  if_neg (Bool.not_eq_true _ ▸ h)

/-- What a 32-bit read of RESULT gives the Host. -/
theorem hostRead_result (s : State) : hostRead .word 0x010#32 s = .ok ⟨s.result.setWidth 32, 0⟩ := rfl

/-- The packed pixel zero-extended is 16 zero bits before its three fields. -/
theorem setWidth_encode565 (r g b : Byte) :
    (encode565 r g b).setWidth 32 = 0#16 ++ r.extractLsb' 3 5 ++ g.extractLsb' 2 6 ++ b.extractLsb' 3 5 := by
  rw [encode565_eq_append, ← BitVec.setWidth_eq (0#16 ++ _ ++ _ ++ _),
    BitVec.setWidth_append_append_append_eq_shiftLeft_setWidth_or,
    BitVec.setWidth_append_append_eq_shiftLeft_setWidth_or, BitVec.setWidth_zero, BitVec.zero_shiftLeft,
    BitVec.zero_or]

end Pack

/-! ### The obligations -/

/-- Settles O6: the formula term by term, and the packed pixel as its three fields. -/
theorem codecFieldForm : Obligations.CodecFieldForm := fun r g b =>
  ⟨toNat_encode565 r g b, encode565_red r g b, encode565_green r g b, encode565_blue r g b⟩

/-- Settles O7: the codec drops 3, 2 and 3 low bits, so `8 * 4 * 8` inputs share an output. -/
theorem codecFibresHave256Inputs : Obligations.CodecFibresHave256Inputs := by
  intro p
  rw [codec_fibre_eq_product, Finset.card_product, Finset.card_product,
    card_channel_high_bits_eq (k := 3) (n := 5) rfl, card_channel_high_bits_eq (k := 2) (n := 6) rfl,
    card_channel_high_bits_eq (k := 3) (n := 5) rfl]
  rfl

/-- Settles O8: PACK's word decodes to it, its two outcomes are BUSY's report and the packed pixel in RESULT. -/
theorem packWritesResult : Obligations.PackWritesResult := by
  refine ⟨decode_pack_word, fun s r g b => ⟨exec_pack_of_busy r g b, fun hbusy => ?accepted⟩⟩
  case accepted =>
    refine ⟨_, exec_pack_of_not_busy r g b hbusy, ?nextState, ?readBack⟩
    case nextState => rw [← encode565_eq_append]; rfl
    case readBack => rw [hostRead_result, reportNone_result, setWidth_encode565]

end Machine

end Sys2Proof
end

section
/-! The framebuffer builder (41_framebuffer_builder.md): BUILD's word, its three outcomes, and what it leaves in FB at the
indices of a pixel, at those of the padding, and past the end. -/

namespace Sys2Proof

/-- BUILD's word from the opcode table decodes to it; `Machine.decode_build` says that no other word does. -/
theorem decode_build_word : decode 0x02000000#32 = .ok .build := rfl

namespace Machine

/-- A memory of size `n` has nothing at or past index `n`. -/
theorem Memory.read_eq_none_of_within {α : Type} {m : Memory α} {n i : Nat} (h : m.within n = true)
    (hi : n ≤ i) : m.read i = none :=
  Memory.read_eq_none fun p hp => by
    have hlt : p.1 < n := (m.within_iff n).1 h p hp
    omega

/-! ### The bytes that BUILD lays out (R85 to R87, R91) -/

section Layout
variable (c : Config) (src : Memory Rgb)

/-- Both bytes of a pixel come from one packed value, which is UNKNOWN where the source pixel is. -/
theorem read_buildFramebuffer_packed {x y : Nat} (hy : y < c.height) (hx : x < c.width) :
    (buildFramebuffer c src).read (y * c.pitch + 2 * x)
      = ((src.read (pixelIndex c x y)).map encodePixel).map lowByte ∧
    (buildFramebuffer c src).read (y * c.pitch + 2 * x + 1)
      = ((src.read (pixelIndex c x y)).map encodePixel).map highByte := by
  simp only [Option.map_map]
  exact ⟨read_buildFramebuffer_low c src hy hx, read_buildFramebuffer_high c src hy hx⟩

/-- FB has FB_LEN bytes and no more. -/
theorem read_buildFramebuffer_past {i : Nat} (hi : c.fbLen ≤ i) : (buildFramebuffer c src).read i = none :=
  Memory.read_eq_none_of_within (buildFramebuffer_within c src) hi

end Layout

/-! ### The geometry check (R88) -/

/-- A legal block has at least one pixel in each direction, so 0, which both registers hold after reset, never
matches. -/
theorem geometryMatches_false_of_zero {s : State} (hl : s.cfg.legal = true)
    (hzero : s.srcWidth = 0 ∨ s.srcHeight = 0) : geometryMatches s = false := by
  obtain ⟨hwidth, hheight, -⟩ := Config.legal_iff.1 hl
  rw [geometryMatches_false]
  rcases hzero with hw | hh
  · have : s.srcWidth.toNat = 0 := by rw [hw]; rfl
    exact .inl (by omega)
  · have : s.srcHeight.toNat = 0 := by rw [hh]; rfl
    exact .inr (by omega)

/-! ### What BUILD does (R87 to R90) -/

section Build
variable {s : State}

theorem exec_build_of_busy (h : s.busy = true) : exec .build s = .next (raiseError .busy s) := if_pos h

/-- The check comes first: a BUILD that fails it leaves FB as it was. -/
theorem exec_build_of_mismatch (h : s.busy = false) (hg : geometryMatches s = false) :
    exec .build s = .next (raiseError .invalidSourceGeometry { s with fbValid := false }) :=
  (if_neg (Bool.not_eq_true _ ▸ h)).trans (if_neg (Bool.not_eq_true _ ▸ hg))

theorem exec_build_of_match (h : s.busy = false) (hg : geometryMatches s = true) :
    exec .build s =
      .next (reportNone { s with fb := buildFramebuffer s.cfg s.src, fbValid := true }) :=
  (if_neg (Bool.not_eq_true _ ▸ h)).trans (if_pos hg)

end Build

/-! ### The obligations -/

/-- Settles O9: an accepted BUILD puts `buildFramebuffer` in FB, whose bytes are known index by index. -/
theorem buildWritesFramebuffer : Obligations.BuildWritesFramebuffer := by
  refine ⟨decode_build_word, fun s => ⟨exec_build_of_busy, fun hbusy hgeom => ?mismatch,
    fun hbusy hwidth hheight => ?built⟩⟩
  case mismatch => exact exec_build_of_mismatch hbusy ((geometryMatches_false s).2 hgeom)
  case built =>
    have hmatch : geometryMatches s = true := (geometryMatches_iff s).2 ⟨hwidth, hheight⟩
    refine ⟨_, exec_build_of_match hbusy hmatch, rfl, ?pixels, ?padding, ?past⟩
    case pixels => exact fun y hy x hx => read_buildFramebuffer_packed s.cfg s.src hy hx
    case padding => exact fun y hy k hk => read_buildFramebuffer_pad s.cfg s.src hy hk
    case past => exact fun i hi => read_buildFramebuffer_past s.cfg s.src hi

/-- Settles O10: the failing outcome of BUILD, and the mismatch that a declared 0 always gives. -/
theorem buildRejectsWrongGeometry : Obligations.BuildRejectsWrongGeometry :=
  ⟨fun s hbusy hgeom => exec_build_of_mismatch hbusy ((geometryMatches_false s).2 hgeom),
    fun s hl hzero => (geometryMatches_false s).1 (geometryMatches_false_of_zero hl hzero)⟩

end Machine

end Sys2Proof
end

section
/-! The obfuscator (42_obfuscator.md): the key mask of an index and its involution, the obfuscation function and the pass
over FB index by index, and XOR's word and two outcomes. -/

namespace Sys2Proof

/-- XOR's word from the opcode table decodes to it; `Machine.decode_xor` says that no other word does. -/
theorem decode_xor_word : decode 0x03000000#32 = .ok .xor := rfl

/-- The KEY of Push3 (R8, R94). -/
theorem Config.push3_key : Config.push3.key = [0xE7#8, 0xF3#8, 0xE7#8, 0xFF#8] := rfl

namespace Machine

/-! ### The key byte of an index (R94, R95) -/

theorem keyByte_eq_of_getElem? {key : List Byte} {i : Nat} {k : Byte} (h : key[i % 4]? = some k) :
    keyByte key i = k := by
  rw [keyByte, List.getD_eq_getElem?_getD, h, Option.getD_some]

/-- The involution on one byte: a mask that is applied twice cancels (R97). -/
theorem xor_keyByte_xor_keyByte (b : Byte) (key : List Byte) (i : Nat) :
    b ^^^ keyByte key i ^^^ keyByte key i = b := by
  rw [BitVec.xor_assoc, BitVec.xor_self, BitVec.xor_zero]

/-! ### The obfuscation function (R94, R97) -/

section Function
variable (buf key : List Byte)

@[simp] theorem length_obfuscate : (obfuscate buf key).length = buf.length := List.length_mapIdx

theorem getElem?_obfuscate (i : Nat) :
    (obfuscate buf key)[i]? = buf[i]?.map fun b => b ^^^ keyByte key i := List.getElem?_mapIdx

theorem obfuscate_obfuscate : obfuscate (obfuscate buf key) key = buf := by
  apply List.ext_getElem?
  intro i
  rw [getElem?_obfuscate, getElem?_obfuscate, Option.map_map]
  cases buf[i]? with
  | none => rfl
  | some b => exact congrArg some (xor_keyByte_xor_keyByte b key i)

end Function

/-! ### The pass over FB (R97, R99, R100) -/

section Pass
variable (c : Config) (fb : Memory Byte)

/-- The second pass gives the same list of cells, whether or not it is in canonical form: a pass keeps every index. -/
theorem obfuscateFb_obfuscateFb : obfuscateFb c (obfuscateFb c fb) = fb := by
  induction fb with
  | nil => rfl
  | cons cell rest ih =>
    obtain ⟨i, b⟩ := cell
    have hcell : (i, b ^^^ keyByte c.key i ^^^ keyByte c.key i) = (i, b) := by
      rw [xor_keyByte_xor_keyByte]
    exact congrArg₂ List.cons hcell ih

end Pass

/-! ### What XOR does (R99) -/

section Xor
variable {s : State}

theorem exec_xor_of_busy (h : s.busy = true) : exec .xor s = .next (raiseError .busy s) := if_pos h

theorem exec_xor_of_not_busy (h : s.busy = false) :
    exec .xor s = .next (reportNone { s with fb := obfuscateFb s.cfg s.fb, fbValid := false }) :=
  if_neg (Bool.not_eq_true _ ▸ h)

end Xor

/-! ### The obligations -/

/-- Settles O12: XOR's word, its two outcomes, and the pass read byte by byte. -/
theorem xorObfuscatesInPlace : Obligations.XorObfuscatesInPlace :=
  ⟨decode_xor_word, fun s => ⟨exec_xor_of_busy, fun hbusy =>
    ⟨_, exec_xor_of_not_busy hbusy, rfl, read_obfuscateFb s.cfg s.fb⟩⟩⟩

/-- Settles O13: the function and the pass, each read at one index where the buffer and the key are known. -/
theorem obfuscateByteFormula : Obligations.ObfuscateByteFormula := by
  refine ⟨fun buf key _ => ⟨length_obfuscate buf key, fun i b k hb hk => ?function⟩,
    fun c fb i b k hb hk => ?pass, Config.push3_key⟩
  case function => rw [getElem?_obfuscate, hb, Option.map_some, keyByte_eq_of_getElem? hk]
  case pass => rw [read_obfuscateFb, hb, Option.map_some, keyByte_eq_of_getElem? hk]

/-- Settles O15: the first XOR leaves PHASE, so the second is accepted too, and its pass undoes the first. -/
theorem xorTwiceRestoresFramebuffer : Obligations.XorTwiceRestoresFramebuffer := by
  refine ⟨obfuscate_obfuscate, fun s hbusy => ?twoCommands⟩
  case twoCommands =>
    have hstill : (reportNone { s with fb := obfuscateFb s.cfg s.fb, fbValid := false }).busy = false :=
      hbusy
    exact ⟨_, _, exec_xor_of_not_busy hbusy, exec_xor_of_not_busy hstill,
      obfuscateFb_obfuscateFb s.cfg s.fb, rfl⟩

end Machine

end Sys2Proof
end

section
/-! The frame protocol (43_frame_protocol.md): the chunk partition and the bytes of a chunk, SEND's word and outcomes,
which Engine step a pending event makes, the chunk step as one state, and what every operation does to TXLOG. -/

namespace Sys2Proof

/-- SEND's word from the opcode table decodes to it; `Machine.decode_send` says that no other word does. -/
theorem decode_send_word : decode 0x04000000#32 = .ok .send := rfl

namespace Machine

/-! ### The chunk partition (R106) -/

section Partition
variable {c : Config} {i : Nat}

theorem chunkLen_eq (c : Config) (i : Nat) :
    chunkLen c i = min ((i + 1) * c.chunkMax) c.fbLen - i * c.chunkMax := by
  rw [Nat.succ_mul]
  rfl

/-- The chunks before chunk `i` end inside the payload. -/
theorem mul_chunkMax_lt_fbLen (hl : c.legal = true) (hi : i < c.nchunks) : i * c.chunkMax < c.fbLen := by
  have hlast : c.nchunks * c.chunkMax < c.fbLen + c.chunkMax :=
    Config.nchunks_mul_lt (Config.one_le_chunkMax_of_legal hl)
  have hnext : (i + 1) * c.chunkMax ≤ c.nchunks * c.chunkMax := Nat.mul_le_mul_right _ hi
  rw [Nat.succ_mul] at hnext
  omega

/-- A chunk that another one follows is full: that one starts inside the payload. -/
theorem chunkLen_inner (hl : c.legal = true) (hi : i + 1 < c.nchunks) : chunkLen c i = c.chunkMax := by
  have hfull : (i + 1) * c.chunkMax < c.fbLen := mul_chunkMax_lt_fbLen hl hi
  rw [chunkLen_eq, min_eq_left hfull.le, Nat.succ_mul, Nat.add_sub_cancel_left]

/-- The last chunk is what the chunks before it leave of the payload. -/
theorem chunkLen_last (hl : c.legal = true) (hi : i + 1 = c.nchunks) :
    chunkLen c i = c.fbLen - i * c.chunkMax := by
  have hcover : c.fbLen ≤ (i + 1) * c.chunkMax :=
    hi ▸ Config.fbLen_le_nchunks_mul (Config.one_le_chunkMax_of_legal hl)
  rw [chunkLen_eq, min_eq_right hcover]

/-- What is left over after `i` full parts, being at least 1 and at most one part, is the remainder, or a whole part
where the remainder is 0. -/
theorem sub_mul_eq_mod_or_full {a b i : Nat} (hlo : i * b < a) (hhi : a ≤ (i + 1) * b) :
    a - i * b = if a % b = 0 then b else a % b := by
  obtain ⟨r, rfl⟩ := Nat.exists_eq_add_of_lt hlo
  have hr : r + 1 ≤ b := by rw [Nat.succ_mul] at hhi; omega
  have hmod : (i * b + r + 1) % b = (r + 1) % b := by rw [Nat.add_assoc, Nat.mul_add_mod_self_right]
  rw [hmod, Nat.add_assoc, Nat.add_sub_cancel_left]
  rcases hr.eq_or_lt with rfl | hlt
  · rw [Nat.mod_self, if_pos rfl]
  · rw [Nat.mod_eq_of_lt hlt, if_neg (Nat.succ_ne_zero r)]

theorem chunkLen_last_eq_mod (hl : c.legal = true) (hi : i + 1 = c.nchunks) :
    chunkLen c i = if c.fbLen % c.chunkMax = 0 then c.chunkMax else c.fbLen % c.chunkMax := by
  rw [chunkLen_last hl hi]
  exact sub_mul_eq_mod_or_full (mul_chunkMax_lt_fbLen hl (by omega))
    (hi ▸ Config.fbLen_le_nchunks_mul (Config.one_le_chunkMax_of_legal hl))

end Partition

/-! ### The bytes of a chunk (R106, R111) -/

section ChunkContents
variable (s : State) (i : Nat)

@[simp] theorem length_chunkBytes : (chunkBytes s i).length = chunkLen s.cfg i := by
  simp [chunkBytes]

variable {s i}

/-- A known byte of FB is sent at its place; only an UNKNOWN one is a draw. -/
theorem getElem?_chunkBytes_known {k : Nat} {b : Byte} (hk : k < chunkLen s.cfg i)
    (hb : s.fb.read (chunkStart s.cfg i + k) = some b) : (chunkBytes s i)[k]? = some b := by
  simp [chunkBytes, hk, fbByteOrDraw, hb]

end ChunkContents

/-! ### What SEND does (R108) -/

section Send
variable {s : State}

theorem exec_send_of_busy (h : s.busy = true) : exec .send s = .next (raiseError .busy s) := if_pos h

theorem exec_send_of_invalid (h : s.busy = false) (hv : s.fbValid = false) :
    exec .send s = .next (raiseError .noValidFramebuffer s) := by
  simp [exec, execSend, h, hv]

theorem exec_send_of_valid (h : s.busy = false) (hv : s.fbValid = true) :
    exec .send s = .next (reportNone
      { s with fbValid := false, bytesSent := 0, chunkIndex := 0, phase := .header }) := by
  simp [exec, execSend, h, hv]

/-- STATUS of a frame whose header is outstanding: PHASE 1 and BUSY, with FB_VALID clear (R21). -/
theorem statusWord_of_header (hp : s.phase = .header) (hv : s.fbValid = false) :
    statusWord s = 0x00000009#32 := by
  rw [statusWord, State.busy, hp, hv]
  rfl

end Send

/-! ### The step that a pending event makes (R57) -/

section PendingEvent
variable {s : State} {rest : List Input}

/-- The event at the head of the schedule is taken, and happens. -/
theorem step_of_input {e : Input} (hl : s.cfg.legal = true) (hi : s.inputs = e :: rest) :
    step s = handleInput e (setInputs rest s) := by
  rw [step_eq_of_legal hl, takeInput, dropInput, hi]
  rfl

/-- In HEADER an answer is the answer to the header write (R41, R109). -/
theorem step_of_answer_header {a : Answer} (hl : s.cfg.legal = true) (hp : s.phase = .header)
    (hi : s.inputs = .answer a :: rest) : step s = .next (headerStep a (setInputs rest s)) := by
  rw [step_of_input hl hi, handleInput, transportAnswer, setInputs_phase, hp]

/-- In SENDING an answer is the answer to the write of chunk CHUNK_INDEX (R41, R111). -/
theorem step_of_answer_sending {a : Answer} (hl : s.cfg.legal = true) (hp : s.phase = .sending)
    (hi : s.inputs = .answer a :: rest) : step s = .next (chunkStep a (setInputs rest s)) := by
  rw [step_of_input hl hi, handleInput, transportAnswer, setInputs_phase, hp]

/-- In HEADER_SENT the pass is enabled (R110). -/
theorem step_of_pass_headerSent (hl : s.cfg.legal = true) (hp : s.phase = .headerSent)
    (hi : s.inputs = .enginePass :: rest) : step s = .next (obfuscationStep (setInputs rest s)) := by
  rw [step_of_input hl hi, handleInput, enginePass, setInputs_phase, hp]

end PendingEvent

/-! ### The chunk step as one state (R111) -/

/-- The last chunk and an inner one differ in PHASE and ERROR only. -/
theorem chunkStep_ok_eq (s : State) : chunkStep .ok s =
    { s with
      draws := s.draws + chunkLen s.cfg s.chunkIndex.toNat
      txlog := s.txlog ++ [⟨s.cfg.epOut, chunkBytes s s.chunkIndex.toNat, .ok⟩]
      bytesSent := s.bytesSent + BitVec.ofNat 32 (chunkLen s.cfg s.chunkIndex.toNat)
      chunkIndex := BitVec.ofNat 32 (s.chunkIndex.toNat + 1)
      phase := if s.chunkIndex.toNat + 1 = s.cfg.nchunks then .complete else s.phase
      error := if s.chunkIndex.toNat + 1 = s.cfg.nchunks then ⟨.noError, false⟩ else s.error } := by
  simp only [chunkStep, length_chunkBytes]
  split
  · next hlast => rw [hlast]; rfl
  · rfl

theorem chunkStep_err_eq (s : State) : chunkStep .err s =
    { s with
      draws := s.draws + chunkLen s.cfg s.chunkIndex.toNat
      txlog := s.txlog ++ [⟨s.cfg.epOut, chunkBytes s s.chunkIndex.toNat, .err⟩]
      phase := .failed
      error := ⟨.transportWriteFailed, true⟩ } := by
  simp only [chunkStep, length_chunkBytes]
  rfl

/-! ### What each operation does to TXLOG (R42, R104) -/

/-- TXLOG is as before, or has one entry more, at its end and with the endpoint EP_OUT. -/
def State.LogGrows (s t : State) : Prop :=
  t.txlog = s.txlog ∨ ∃ bytes r, t.txlog = s.txlog ++ [⟨s.cfg.epOut, bytes, r⟩]

section TransportLog
variable {s t : State}

@[simp] theorem headerStep_txlog (a : Answer) (s : State) :
    (headerStep a s).txlog = s.txlog ++ [⟨s.cfg.epOut, s.cfg.header, answerResult a⟩] := by
  cases a <;> rfl

@[simp] theorem chunkStep_txlog (a : Answer) (s : State) : (chunkStep a s).txlog =
    s.txlog ++ [⟨s.cfg.epOut, chunkBytes s s.chunkIndex.toNat, answerResult a⟩] := by
  cases a with
  | ok => rw [chunkStep_ok_eq]; rfl
  | err => rfl

@[simp] theorem obfuscationStep_txlog (s : State) : (obfuscationStep s).txlog = s.txlog := rfl

theorem transportAnswer_logGrows (a : Answer) (s : State) : s.LogGrows (transportAnswer a s) := by
  rcases transportAnswer_cases a s with ⟨-, he⟩ | ⟨-, he⟩ | ⟨-, -, he⟩ <;> rw [he]
  · exact .inr ⟨_, _, headerStep_txlog a s⟩
  · exact .inr ⟨_, _, chunkStep_txlog a s⟩
  · exact .inl rfl

@[simp] theorem enginePass_txlog (s : State) : (enginePass s).txlog = s.txlog := by
  rcases enginePass_cases s with ⟨-, he⟩ | ⟨-, he⟩ <;> simp [he]

/-- A reset logs the write that it abandons, if one is outstanding (R139, R141). -/
theorem applyReset_logGrows (s : State) : s.LogGrows (applyReset s) := by
  change s.LogGrows (abandonWrite s)
  unfold abandonWrite
  split
  · exact .inl rfl
  · exact .inr ⟨_, _, rfl⟩

/-- No command issues a transport write, SEND neither (R108). -/
theorem issueCommand_txlog {w : Word} (h : issueCommand w s = .next t) : t.txlog = s.txlog := by
  rcases issueCommand_cases h with ⟨code, rfl⟩ | ⟨-, r, g, b, -, rfl⟩ | ⟨-, -, -, rfl⟩ |
    ⟨-, -, -, rfl⟩ | ⟨-, -, rfl⟩ | ⟨-, -, -, rfl⟩
  all_goals rfl

theorem hostWrite_txlog {width : AccessWidth} {addr v : Word} (h : hostWrite width addr v s = .next t) :
    t.txlog = s.txlog := by
  obtain ⟨-, ⟨-, hcmd⟩ | ⟨-, rfl⟩ | ⟨-, rfl⟩ | ⟨j, -, -, rfl⟩ | ⟨-, rfl⟩⟩ := hostWrite_cases h
  · exact issueCommand_txlog hcmd
  all_goals rfl

theorem writeTransaction_txlog {width : AccessWidth} {addr v : Word}
    (h : writeTransaction width addr v s = .next t) : t.txlog = s.txlog := by
  rcases writeTransaction_cases width addr v s with ⟨u, hwrite, hnext⟩ | ⟨-, hnext⟩ <;>
    cases hnext.symm.trans h
  · exact (respond_txlog _ u).trans (hostWrite_txlog hwrite)
  · rfl

end TransportLog

/-! ### The obligations -/

/-- Settles O16: SEND's word and its three outcomes; the phases from which it is accepted are those with BUSY = 0. -/
theorem sendStartsFrame : Obligations.SendStartsFrame := by
  refine ⟨decode_send_word, fun s => ⟨exec_send_of_busy, exec_send_of_invalid, fun hphase hvalid => ?accepted⟩⟩
  case accepted =>
    exact ⟨_, exec_send_of_valid ((busy_false_iff s).2 hphase) hvalid, rfl, rfl,
      statusWord_of_header rfl rfl⟩

/-- Settles O19: the step is `headerStep`, for either answer. -/
theorem headerAnswerStep : Obligations.HeaderAnswerStep := by
  intro s a rest hl hp hi
  refine ⟨(Config.lengths_of_legal hl).1, ?_⟩
  rw [step_of_answer_header hl hp hi]
  cases a <;> rfl

/-- Settles O20: the step is `obfuscationStep`, whose FB is read byte by byte. -/
theorem obfuscationPassStep : Obligations.ObfuscationPassStep := fun s _ hl hp hi =>
  ⟨_, step_of_pass_headerSent hl hp hi, rfl, read_obfuscateFb s.cfg s.fb⟩

/-- Settles O21: the step is `chunkStep`, and the bytes it offers are those of chunk CHUNK_INDEX. -/
theorem chunkAnswerStep : Obligations.ChunkAnswerStep := by
  intro s a rest hl hp _ hi
  refine ⟨_, chunkBytes s s.chunkIndex.toNat, step_of_answer_sending hl hp hi, length_chunkBytes _ _,
    fun k b => getElem?_chunkBytes_known, ?nextState⟩
  case nextState =>
    cases a with
    | ok =>
      rw [chunkStep_ok_eq, setInputs_phase, hp]
      rfl
    | err =>
      rw [chunkStep_err_eq]
      rfl

/-- Settles O24: the length of an inner and of the last chunk, and the known bytes at their places. -/
theorem chunkPartition : Obligations.ChunkPartition := by
  intro s c hl hc
  rw [← chunkLen_eq]
  refine ⟨length_chunkBytes s c, fun hinner => chunkLen_inner hl (by omega), fun hlast => ⟨?rest, ?mod⟩,
    fun k b => getElem?_chunkBytes_known⟩
  case rest => rw [← hlast]; exact chunkLen_last hl (by omega)
  case mod => exact chunkLen_last_eq_mod hl (by omega)

/-- Settles O51: only an answer to an outstanding write and a reset that abandons one add an entry. -/
theorem transportLogIsAppendOnly : Obligations.TransportLogIsAppendOnly := by
  intro s t hstep
  obtain ⟨-, ⟨-, rfl⟩ | ⟨-, -, -, -, ins, log, drawn, found, rfl⟩ | ⟨width, addr, v, -, hwrite⟩ |
    ⟨a, -, rfl⟩ | ⟨-, rfl⟩ | ⟨-, rfl⟩⟩ := step_cases_reads hstep
  · exact .inl (enginePass_txlog s)
  · exact .inl rfl
  · exact .inl ((writeTransaction_txlog hwrite).trans (dropInput_txlog s))
  · exact transportAnswer_logGrows a (dropInput s)
  · exact .inl (enginePass_txlog (dropInput s))
  · exact applyReset_logGrows (dropInput s)

end Machine

end Sys2Proof
end

section
/-! Errors (60_exceptions.md): what a CMD write does with an ILLEGAL word and with a command (R72, R73), the rejection
that every command has in common (R123), and the order in which the causes are looked at (R124). -/

namespace Sys2Proof

namespace Machine

/-! ### What a CMD write does (R72, R73) -/

section CommandWrite
variable {s : State} {w : Word}

/-- Decoding is first, and an ILLEGAL word's report does not look at BUSY. -/
theorem issueCommand_of_illegal {e : DecodeError} (h : decode w = .error e) :
    issueCommand w s = .next (raiseError .illegalCommand s) := by
  rw [issueCommand, h]

theorem issueCommand_of_decode {i : Instr} (h : decode w = .ok i) : issueCommand w s = exec i s := by
  rw [issueCommand, h]

end CommandWrite

/-! ### The rejection while a frame is in flight (R123) -/

theorem exec_of_busy {s : State} (i : Instr) (h : s.busy = true) :
    exec i s = .next (raiseError .busy s) := by
  cases i with
  | pack r g b => exact exec_pack_of_busy r g b h
  | build => exact exec_build_of_busy h
  | xor => exact exec_xor_of_busy h
  | send => exact exec_send_of_busy h

/-! ### The obligations -/

/-- Settles O17: the four commands share one rejection, whose report is all it changes. -/
theorem busyRejectsEveryCommand : Obligations.BusyRejectsEveryCommand := fun i _ => exec_of_busy i

/-- Settles O18: decoding picks the ILLEGAL words out first, BUSY rejects any command, and SEND and BUILD make their own
check once both are passed. -/
theorem commandErrorPriority : Obligations.CommandErrorPriority := by
  intro s w
  refine ⟨fun e hillegal => issueCommand_of_illegal hillegal, fun i hi hbusy => ?busy,
    fun hsend hbusy hinvalid => ?sendCheck, fun hbuild hbusy hgeom => ?buildCheck⟩
  case busy => exact (issueCommand_of_decode hi).trans (exec_of_busy i hbusy)
  case sendCheck => exact (issueCommand_of_decode hsend).trans (exec_send_of_invalid hbusy hinvalid)
  case buildCheck =>
    exact (issueCommand_of_decode hbuild).trans
      (exec_build_of_mismatch hbusy ((geometryMatches_false s).2 hgeom))

end Machine

end Sys2Proof
end

section
/-! The encoding of commands (30_encoding.md): decoding and encoding are inverse to each other, which words are ILLEGAL, how
PACK assembles, and the step that a CMD write makes. -/

namespace Sys2Proof

/-! ### Decoding and encoding (R70 to R72, R76) -/

theorem decode_encode (i : Instr) : decode (encode i) = .ok i := by
  cases i with
  | pack r g b => rw [encode_pack_eq_append, decode_pack_word]
  | build => rfl
  | xor => rfl
  | send => rfl

theorem encode_pack_fields {w : Word} (h : opcodeField w = 0x01#8) :
    encode (.pack (fieldA w) (fieldB w) (fieldC w)) = w := by
  rw [encode_pack_eq_append, ← h, opcodeField, fieldA, fieldB, fieldC,
    BitVec.extractLsb'_append_extractLsb'_eq_extractLsb' (by decide),
    BitVec.extractLsb'_append_extractLsb'_eq_extractLsb' (by decide),
    BitVec.extractLsb'_append_extractLsb'_eq_extractLsb' (by decide)]
  exact BitVec.extractLsb'_eq_self

/-- The mask of PACK's row tests the opcode. -/
theorem opcode_mask_iff (w : Word) : w &&& 0xFF000000#32 = 0x01000000#32 ↔ opcodeField w = 0x01#8 := by
  constructor
  · intro hmask
    have hopcode := congrArg (BitVec.extractLsb' 24 8) hmask
    rw [BitVec.extractLsb'_and] at hopcode
    calc opcodeField w = w.extractLsb' 24 8 &&& BitVec.allOnes 8 := BitVec.and_allOnes.symm
      _ = 0x01#8 := hopcode
  · intro hopcode
    rw [← encode_pack_fields hopcode]
    exact Laws.TableRow.pack _ _ _

theorem encode_of_decode {w : Word} {i : Instr} (h : decode w = .ok i) : encode i = w := by
  cases i with
  | pack r g b =>
    have hmask : w &&& 0xFF000000#32 = 0x01000000#32 := by
      unfold decode at h
      by_contra hmask
      rw [if_neg hmask] at h
      repeat' split at h
      all_goals cases h
    rw [decode, if_pos hmask] at h
    cases h
    exact encode_pack_fields ((opcode_mask_iff w).1 hmask)
  | build => exact (Machine.decode_build h).symm
  | xor => exact (Machine.decode_xor h).symm
  | send => exact (Machine.decode_send h).symm

/-- Every channel field holds a value of 0..255. -/
theorem wellFormed_instr (i : Instr) : i.wellFormed = true := by
  have hfits (c : Byte) : channelFits c.toNat = true := decide_eq_true (Nat.le_of_lt_succ c.isLt)
  cases i with
  | pack r g b => simp only [Instr.wellFormed, hfits, Bool.and_self]
  | build => rfl
  | xor => rfl
  | send => rfl

/-! ### The ILLEGAL words (R73) -/

theorem opcodeField_eq_one_iff (w : Word) : opcodeField w = 0x01#8 ↔ w.toNat / 2 ^ 24 = 1 := by
  have hw := w.isLt
  rw [BitVec.toNat_eq, opcodeField, BitVec.extractLsb'_toNat, Nat.shiftRight_eq_div_pow, BitVec.toNat_ofNat]
  omega

/-- A word is ILLEGAL exactly when no row of the opcode table matches it. -/
theorem decode_error_iff (w : Word) : (∃ e, decode w = .error e) ↔
    w.toNat / 2 ^ 24 ≠ 1 ∧ w ≠ 0x02000000#32 ∧ w ≠ 0x03000000#32 ∧ w ≠ 0x04000000#32 := by
  rw [ne_eq, ← opcodeField_eq_one_iff, ← opcode_mask_iff, decode]
  split_ifs <;> simp [*]

/-- The rows without operands match one word each, so the other words with their opcodes are ILLEGAL, as are those with
an opcode of no row. -/
theorem decode_error_iff_opcode (w : Word) : (∃ e, decode w = .error e) ↔
    (w.toNat / 2 ^ 24 = 0 ∨ 5 ≤ w.toNat / 2 ^ 24 ∨
      ((2 ≤ w.toNat / 2 ^ 24 ∧ w.toNat / 2 ^ 24 ≤ 4) ∧ w.toNat % 2 ^ 24 ≠ 0)) := by
  rw [decode_error_iff]
  simp only [ne_eq, BitVec.toNat_eq, BitVec.toNat_ofNat]
  omega

/-! ### How PACK assembles (R76) -/

theorem channelFits_iff (v : Nat) : channelFits v = true ↔ v ≤ 255 := decide_eq_true_iff

/-- The fields of PACK's word do not overlap, so the word is their sum. -/
theorem toNat_encode_pack (r g b : Byte) :
    (encode (.pack r g b)).toNat = 0x01 * 2 ^ 24 + r.toNat * 2 ^ 16 + g.toNat * 2 ^ 8 + b.toNat := by
  have hr := r.isLt
  have hg := g.isLt
  have hb := b.isLt
  rw [encode_pack_eq_append]
  simp only [BitVec.toNat_append]
  rw [← Nat.shiftLeft_add_eq_or_of_lt hr, ← Nat.shiftLeft_add_eq_or_of_lt hg,
    ← Nat.shiftLeft_add_eq_or_of_lt hb]
  simp only [Nat.shiftLeft_eq, BitVec.toNat_ofNat]
  omega

namespace Machine

theorem assemble_pack (c : Config) {r g b : Nat} (hr : r ≤ 255) (hg : g ≤ 255) (hb : b ≤ 255) :
    assemble c (.pack r g b) = some
      [.write .word 0x004#32 (BitVec.ofNat 32 (0x01 * 2 ^ 24 + r * 2 ^ 16 + g * 2 ^ 8 + b))] := by
  have hfits : HostStmt.wellFormed c (.pack r g b) = true := by
    simp [HostStmt.wellFormed, channelFits_iff, hr, hg, hb]
  have hchannel {v : Nat} (hv : v ≤ 255) : (BitVec.ofNat 8 v).toNat = v :=
    Nat.mod_eq_of_lt (Nat.lt_succ_of_le hv)
  rw [assemble, if_pos hfits, expandStmt, commandStmt, wrInput, toNat_encode_pack, hchannel hr, hchannel hg,
    hchannel hb]

theorem assemble_pack_none (c : Config) {r g b : Nat} (h : 255 < r ∨ 255 < g ∨ 255 < b) :
    assemble c (.pack r g b) = none := by
  have hfits : ¬ HostStmt.wellFormed c (.pack r g b) = true := by
    simp only [HostStmt.wellFormed, Bool.and_eq_true, channelFits_iff]
    omega
  rw [assemble, if_neg hfits]

/-! ### The step that a CMD write makes (R20, R57) -/

section CommandStep
variable {s t : State} {w : Word} {rest : List Input}

/-- The offset 0x004 is CMD's. -/
theorem hostWrite_cmd (w : Word) (s : State) : hostWrite .word 0x004#32 w s = issueCommand w s := rfl

theorem writeTransaction_of_next {width : AccessWidth} {addr v : Word}
    (h : hostWrite width addr v s = .next t) :
    writeTransaction width addr v s = .next (respond .done t) := by rw [writeTransaction, h]

/-- A pending write of a command's word runs the command at the state with that event taken. -/
theorem step_of_command {i : Instr} (hl : s.cfg.legal = true)
    (hi : s.inputs = .write .word 0x004#32 w :: rest) (hdecode : decode w = .ok i)
    (hexec : exec i (setInputs rest s) = .next t) : step s = .next (respond .done t) := by
  rw [step_of_input hl hi]
  exact writeTransaction_of_next ((issueCommand_of_decode hdecode).trans hexec)

end CommandStep

/-! ### The obligations -/

/-- Settles O1: both directions, the second by the words that decode to each command. -/
theorem decodeEncodeAgree : Obligations.DecodeEncodeAgree :=
  ⟨fun i _ => decode_encode i, fun _ i h => ⟨encode_of_decode h, wellFormed_instr i⟩⟩

/-- Settles O2: closed words, by evaluation. -/
theorem exampleWordsDecode : Obligations.ExampleWordsDecode := by
  unfold Obligations.ExampleWordsDecode
  decide

/-- Settles O3: the words of no row, and the report of a CMD write that carries one. -/
theorem illegalWordsOnlyReport : Obligations.IllegalWordsOnlyReport := fun w =>
  ⟨decode_error_iff_opcode w, fun s _ hillegal =>
    writeTransaction_of_next ((hostWrite_cmd w s).trans (issueCommand_of_illegal hillegal))⟩

/-- Settles O4: the word as the sum of its fields, and the check that a channel outside 0..255 fails. -/
theorem packAssemblesExactlyInRange : Obligations.PackAssemblesExactlyInRange := fun c _ _ _ =>
  ⟨fun ⟨hr, hg, hb⟩ => assemble_pack c hr hg hb, assemble_pack_none c⟩

/-- Settles O5: a CMD write issues its command, and every command gives a next state. -/
theorem stepRunsDecodedCommand : Obligations.StepRunsDecodedCommand := by
  intro s w rest i hl hi hdecode _
  obtain ⟨t, hexec⟩ := exec_next i (setInputs rest s)
  exact ⟨t, hexec, step_of_command hl hi hdecode hexec⟩

end Machine

end Sys2Proof
end

section
/-! What one step can do to the block, whatever event makes it: one constructor per effect, with the event and the
conditions that go with it. The rules about every step are read off this list. -/

namespace Sys2Proof.Machine

/-! ### The effects (R33, R57) -/

/-- The model's own lists and counter aside, `t` is the block of `s`. -/
def SameBlock (s t : State) : Prop :=
  ∃ ins log found drawn, t = { s with inputs := ins, hostLog := log, checks := found, draws := drawn }

/-- `StepEffect s t`: a step from `s` makes the block of `t` out of the block of `s`. A command's effects carry the CMD
write that issues it, an Engine step's the event that it waits for. -/
inductive StepEffect (s : State) : State → Prop
  /-- Nothing happens to the block, and the event is none that the Engine waits for. -/
  | unchanged (hevent : ∀ e, s.inputs.head? = some e → ¬ engineEvent s e) : StepEffect s s
  /-- A CMD write only reports an error. -/
  | report (w : Word) (code : ErrorCode) (hevent : s.inputs.head? = some (.write .word 0x004#32 w)) :
      StepEffect s (raiseError code s)
  | pack (w : Word) (r g b : Byte) (hevent : s.inputs.head? = some (.write .word 0x004#32 w))
      (hbusy : s.busy = false) (hdecode : decode w = .ok (.pack r g b)) :
      StepEffect s (reportNone { s with result := encode565 r g b })
  | build (hevent : s.inputs.head? = some (.write .word 0x004#32 0x02000000#32))
      (hbusy : s.busy = false) (hgeom : geometryMatches s = true) :
      StepEffect s (reportNone { s with fb := buildFramebuffer s.cfg s.src, fbValid := true })
  | buildFails (hevent : s.inputs.head? = some (.write .word 0x004#32 0x02000000#32))
      (hbusy : s.busy = false) (hgeom : geometryMatches s = false) :
      StepEffect s (raiseError .invalidSourceGeometry { s with fbValid := false })
  | xor (hevent : s.inputs.head? = some (.write .word 0x004#32 0x03000000#32)) (hbusy : s.busy = false) :
      StepEffect s (reportNone { s with fb := obfuscateFb s.cfg s.fb, fbValid := false })
  | send (hevent : s.inputs.head? = some (.write .word 0x004#32 0x04000000#32))
      (hbusy : s.busy = false) (hvalid : s.fbValid = true) :
      StepEffect s (reportNone
        { s with fbValid := false, bytesSent := 0, chunkIndex := 0, phase := .header })
  | srcWidth (v : Word) (hevent : s.inputs.head? = some (.write .word 0x014#32 v)) :
      StepEffect s { s with srcWidth := v.extractLsb' 0 16 }
  | srcHeight (v : Word) (hevent : s.inputs.head? = some (.write .word 0x018#32 v)) :
      StepEffect s { s with srcHeight := v.extractLsb' 0 16 }
  | src (addr v : Word) (j : Nat) (hevent : s.inputs.head? = some (.write .word addr v))
      (hj : j < s.cfg.pixels) (haddr : addr.toNat = srcBase + 4 * j) : StepEffect s (writeSrc j v s)
  | header (a : Answer) (hevent : s.inputs.head? = some (.answer a)) (hphase : s.phase = .header) :
      StepEffect s (headerStep a s)
  | pass (hevent : s.inputs.head? = none ∨ s.inputs.head? = some .enginePass)
      (hphase : s.phase = .headerSent) : StepEffect s (obfuscationStep s)
  | chunk (a : Answer) (hevent : s.inputs.head? = some (.answer a)) (hphase : s.phase = .sending) :
      StepEffect s (chunkStep a s)
  | reset (hevent : s.inputs.head? = some .reset) : StepEffect s (applyReset s)

section Effects
variable {s t : State}

theorem SameBlock.refl (s : State) : SameBlock s s := ⟨_, _, _, _, rfl⟩

/-- The Engine waits for no host event. -/
theorem not_engineEvent_of_fromHost {e : Input} (he : e.fromHost = true) : ¬ engineEvent s e := by
  rintro (⟨-, a, rfl⟩ | ⟨-, rfl⟩) <;> cases he

/-! ### Each event's effect -/

theorem issueCommand_effect {w : Word} (hevent : s.inputs.head? = some (.write .word 0x004#32 w))
    (h : issueCommand w (dropInput s) = .next t) : ∃ u, StepEffect s u ∧ SameBlock u t := by
  rcases issueCommand_cases h with ⟨code, rfl⟩ | ⟨hbusy, r, g, b, hdecode, rfl⟩ |
    ⟨hbusy, rfl, hgeom, rfl⟩ | ⟨hbusy, rfl, hgeom, rfl⟩ | ⟨hbusy, rfl, rfl⟩ |
    ⟨hbusy, rfl, hvalid, rfl⟩
  · exact ⟨_, .report w code hevent, _, _, _, _, rfl⟩
  · exact ⟨_, .pack w r g b hevent hbusy hdecode, _, _, _, _, rfl⟩
  · exact ⟨_, .build hevent hbusy hgeom, _, _, _, _, rfl⟩
  · exact ⟨_, .buildFails hevent hbusy hgeom, _, _, _, _, rfl⟩
  · exact ⟨_, .xor hevent hbusy, _, _, _, _, rfl⟩
  · exact ⟨_, .send hevent hbusy hvalid, _, _, _, _, rfl⟩

theorem SameBlock.dropInput (s : State) : SameBlock s (dropInput s) := ⟨_, _, _, _, rfl⟩

theorem SameBlock.respond {r : Response} (h : SameBlock s t) : SameBlock s (respond r t) := by
  obtain ⟨ins, log, found, drawn, rfl⟩ := h
  exact ⟨_, _, _, _, rfl⟩

theorem unchanged_of_fromHost {e : Input} (hevent : s.inputs.head? = some e) (he : e.fromHost = true) :
    StepEffect s s :=
  .unchanged fun e' he' => by
    cases hevent.symm.trans he'
    exact not_engineEvent_of_fromHost he

theorem writeTransaction_effect {width : AccessWidth} {addr v : Word}
    (hevent : s.inputs.head? = some (.write width addr v))
    (h : writeTransaction width addr v (dropInput s) = .next t) : ∃ u, StepEffect s u ∧ SameBlock u t := by
  rcases writeTransaction_cases width addr v (dropInput s) with ⟨t', hwrite, hnext⟩ | ⟨-, hnext⟩ <;>
    cases hnext.symm.trans h
  · obtain ⟨rfl, ⟨rfl, hcmd⟩ | ⟨rfl, rfl⟩ | ⟨rfl, rfl⟩ | ⟨j, hj, haddr, rfl⟩ | ⟨-, rfl⟩⟩ :=
      hostWrite_cases hwrite
    · obtain ⟨u, heffect, hsame⟩ := issueCommand_effect hevent hcmd
      exact ⟨u, heffect, hsame.respond⟩
    · exact ⟨_, .srcWidth v hevent, _, _, _, _, rfl⟩
    · exact ⟨_, .srcHeight v hevent, _, _, _, _, rfl⟩
    · exact ⟨_, .src addr v j hevent hj haddr, _, _, _, _, rfl⟩
    · exact ⟨_, unchanged_of_fromHost hevent rfl, _, _, _, _, rfl⟩
  · exact ⟨_, unchanged_of_fromHost hevent rfl, _, _, _, _, rfl⟩

/-! The Engine's steps and the reset do not look at the schedule. -/

theorem headerStep_dropInput (a : Answer) (s : State) :
    headerStep a (dropInput s) = dropInput (headerStep a s) := by
  cases a <;> rfl

theorem chunkStep_dropInput (a : Answer) (s : State) :
    chunkStep a (dropInput s) = dropInput (chunkStep a s) := by
  cases a with
  | ok => rw [chunkStep_ok_eq, chunkStep_ok_eq]; rfl
  | err => rfl

theorem transportAnswer_dropInput (a : Answer) (s : State) :
    transportAnswer a (dropInput s) = dropInput (transportAnswer a s) := by
  unfold transportAnswer
  rw [headerStep_dropInput, chunkStep_dropInput, dropInput_phase]
  cases s.phase <;> rfl

theorem enginePass_dropInput (s : State) : enginePass (dropInput s) = dropInput (enginePass s) := by
  unfold enginePass
  rw [dropInput_phase]
  cases s.phase <;> rfl

theorem applyReset_dropInput (s : State) : applyReset (dropInput s) = dropInput (applyReset s) := by
  have hwrite : outstandingWrite (dropInput s) = outstandingWrite s := rfl
  unfold applyReset abandonWrite
  rw [hwrite]
  cases outstandingWrite s <;> rfl

/-- An answer that no Engine step waits for changes nothing (R112, R139). -/
theorem transportAnswer_effect {a : Answer} (hevent : s.inputs.head? = some (.answer a)) :
    StepEffect s (transportAnswer a s) := by
  rcases transportAnswer_cases a s with ⟨hp, he⟩ | ⟨hp, he⟩ | ⟨hheader, hsending, he⟩ <;> rw [he]
  · exact .header a hevent hp
  · exact .chunk a hevent hp
  · refine .unchanged fun e he' => ?_
    cases hevent.symm.trans he'
    rintro (⟨hp | hp, -⟩ | ⟨-, hpass⟩)
    · exact hheader hp
    · exact hsending hp
    · cases hpass

theorem enginePass_effect (hevent : s.inputs.head? = none ∨ s.inputs.head? = some .enginePass) :
    StepEffect s (enginePass s) := by
  rcases enginePass_cases s with ⟨hp, he⟩ | ⟨hp, he⟩ <;> rw [he]
  · exact .pass hevent hp
  · refine .unchanged fun e he' => ?_
    rintro (⟨-, a, rfl⟩ | ⟨hp', -⟩)
    · rcases hevent with hevent | hevent <;> cases hevent.symm.trans he'
    · exact hp hp'

/-- All that one step can do to the block. -/
theorem step_effect (h : step s = .next t) :
    s.cfg.legal = true ∧ ∃ u, StepEffect s u ∧ SameBlock u t := by
  obtain ⟨hl, hcases⟩ := step_cases_reads h
  refine ⟨hl, ?_⟩
  rcases hcases with ⟨hnone, rfl⟩ | ⟨e, hevent, he, -, ins, log, drawn, found, rfl⟩ |
    ⟨width, addr, v, hevent, hwrite⟩ | ⟨a, hevent, rfl⟩ | ⟨hevent, rfl⟩ | ⟨hevent, rfl⟩
  · exact ⟨_, enginePass_effect (.inl (by rw [hnone]; rfl)), .refl _⟩
  · exact ⟨_, unchanged_of_fromHost hevent he, _, _, _, _, rfl⟩
  · exact writeTransaction_effect hevent hwrite
  · exact ⟨_, transportAnswer_effect hevent, transportAnswer_dropInput a s ▸ .dropInput _⟩
  · exact ⟨_, enginePass_effect (.inr hevent), enginePass_dropInput s ▸ .dropInput _⟩
  · exact ⟨_, .reset hevent, applyReset_dropInput s ▸ .dropInput _⟩

end Effects

end Sys2Proof.Machine
end

section
/-! The invariant of R34 (10_state.md section 3): each effect of a step keeps it, the chunk step by the arithmetic of the
progress counters. -/

namespace Sys2Proof.Machine

/-! ### What the Engine's steps leave alone (R109 to R111) -/

section EngineFrame
variable (a : Answer) (s : State)

@[simp] theorem headerStep_fbValid : (headerStep a s).fbValid = s.fbValid := by cases a <;> rfl
@[simp] theorem headerStep_fb : (headerStep a s).fb = s.fb := by cases a <;> rfl
@[simp] theorem headerStep_result : (headerStep a s).result = s.result := by cases a <;> rfl
@[simp] theorem headerStep_srcWidth : (headerStep a s).srcWidth = s.srcWidth := by cases a <;> rfl
@[simp] theorem headerStep_srcHeight : (headerStep a s).srcHeight = s.srcHeight := by cases a <;> rfl
@[simp] theorem headerStep_src : (headerStep a s).src = s.src := by cases a <;> rfl

/-- An answered chunk leaves everything but the progress of the frame, its report and the model's draws. -/
theorem chunkStep_frame : chunkStep a s =
    { s with
      phase := (chunkStep a s).phase
      error := (chunkStep a s).error
      bytesSent := (chunkStep a s).bytesSent
      chunkIndex := (chunkStep a s).chunkIndex
      txlog := (chunkStep a s).txlog
      draws := (chunkStep a s).draws } := by
  cases a with
  | ok => rw [chunkStep_ok_eq]
  | err => rfl

@[simp] theorem chunkStep_fbValid : (chunkStep a s).fbValid = s.fbValid := by rw [chunkStep_frame]
@[simp] theorem chunkStep_fb : (chunkStep a s).fb = s.fb := by rw [chunkStep_frame]
@[simp] theorem chunkStep_result : (chunkStep a s).result = s.result := by rw [chunkStep_frame]
@[simp] theorem chunkStep_srcWidth : (chunkStep a s).srcWidth = s.srcWidth := by rw [chunkStep_frame]
@[simp] theorem chunkStep_srcHeight : (chunkStep a s).srcHeight = s.srcHeight := by rw [chunkStep_frame]
@[simp] theorem chunkStep_src : (chunkStep a s).src = s.src := by rw [chunkStep_frame]

variable {s}

/-- An answered chunk leaves SENDING only for the end of the frame. -/
theorem chunkStep_phase (hp : s.phase = .sending) : (chunkStep a s).phase = .sending ∨
    (chunkStep a s).phase = .complete ∨ (chunkStep a s).phase = .failed := by
  cases a with
  | err => exact .inr (.inr rfl)
  | ok =>
    by_cases hlast : s.chunkIndex.toNat + 1 = s.cfg.nchunks
    · exact .inr (.inl (chunkStep_ok_last_phase hlast))
    · exact .inl ((chunkStep_ok_inner_phase hlast).trans hp)

end EngineFrame

/-! ### The progress counters of a chunk step (R111) -/

section Progress
variable {s : State}

/-- After chunk `i` the bytes sent are those of `i + 1` full chunks, or all of FB where that is less. -/
theorem mul_chunkMax_add_chunkLen {c : Config} {i : Nat} (hl : c.legal = true) (hi : i < c.nchunks) :
    i * c.chunkMax + chunkLen c i = min ((i + 1) * c.chunkMax) c.fbLen := by
  have hstart := mul_chunkMax_lt_fbLen hl hi
  rw [chunkLen_eq, Nat.succ_mul]
  omega

/-- There is no wrap-around: the bytes sent are at most FB_LEN, which fits BYTES_SENT. -/
theorem chunkStep_ok_bytesSent_toNat (hl : s.cfg.legal = true) (hi : s.chunkIndex.toNat < s.cfg.nchunks)
    (hsent : s.bytesSent.toNat = s.chunkIndex.toNat * s.cfg.chunkMax) :
    (chunkStep .ok s).bytesSent.toNat =
      min ((s.chunkIndex.toNat + 1) * s.cfg.chunkMax) s.cfg.fbLen := by
  have hsum := mul_chunkMax_add_chunkLen hl hi
  have hlen := Config.fbLen_le_of_legal hl
  rw [chunkStep_ok_eq, BitVec.toNat_add, BitVec.toNat_ofNat, hsent]
  omega

end Progress

/-! ### Each effect keeps the invariant -/

section Invariant
variable {s t u : State}

theorem State.Inv.sameBlock (h : u.Inv) (hsame : SameBlock u t) : t.Inv := by
  obtain ⟨ins, log, found, drawn, rfl⟩ := hsame
  exact { h with }

theorem State.Inv.headerStep (h : s.Inv) (hp : s.phase = .header) (a : Answer) : (headerStep a s).Inv := by
  have hfbValid : s.fbValid = false := h.busy_fbValid ((busy_iff s).2 (.inl hp))
  obtain ⟨hindex, hsent⟩ := h.early_progress (.inr (.inl hp))
  cases a with
  | ok =>
    exact { h with
      busy_fbValid := fun _ => hfbValid
      early_progress := fun _ => ⟨hindex, hsent⟩
      sending_progress := fun hsending => by cases hsending
      complete_progress := fun hcomplete => by cases hcomplete
      failed_progress := fun hfailed => by cases hfailed }
  | err =>
    exact { h with
      busy_fbValid := fun _ => hfbValid
      stage_code := fun _ => rfl
      early_progress := fun _ => ⟨hindex, hsent⟩
      sending_progress := fun hsending => by cases hsending
      complete_progress := fun hcomplete => by cases hcomplete
      failed_progress := fun _ => by
        have hchunks : 0 < s.cfg.nchunks := Config.one_le_nchunks_of_legal h.cfg_legal
        simpa [Machine.headerStep, hindex, hsent] using hchunks }

theorem State.Inv.obfuscationStep (h : s.Inv) (hp : s.phase = .headerSent) : (obfuscationStep s).Inv := by
  obtain ⟨-, hsent⟩ := h.early_progress (.inr (.inr hp))
  exact { h with
    fb_wf := obfuscateFb_wf s.cfg h.fb_wf
    fb_within := obfuscateFb_within s.cfg h.fb_within
    busy_fbValid := fun _ => h.busy_fbValid ((busy_iff s).2 (.inr (.inl hp)))
    early_progress := fun hearly => by simp at hearly
    sending_progress := fun _ => by
      have hchunks : 0 < s.cfg.nchunks := Config.one_le_nchunks_of_legal h.cfg_legal
      simpa [Machine.obfuscationStep, hsent] using hchunks
    complete_progress := fun hcomplete => by cases hcomplete
    failed_progress := fun hfailed => by cases hfailed }

/-- An answered chunk that is not the last leaves the next one outstanding; the last one completes the frame. -/
theorem State.Inv.chunkStep_ok (h : s.Inv) (hp : s.phase = .sending) : (chunkStep .ok s).Inv := by
  obtain ⟨hi, hsent⟩ := h.sending_progress hp
  have hindex := chunkStep_ok_chunkIndex_toNat h.cfg_legal hi
  have hbytes := chunkStep_ok_bytesSent_toNat h.cfg_legal hi hsent
  have hfbValid : s.fbValid = false := h.busy_fbValid ((busy_iff s).2 (.inr (.inr hp)))
  by_cases hlast : s.chunkIndex.toNat + 1 = s.cfg.nchunks
  · have hphase := chunkStep_ok_last_phase hlast
    have hcover := Config.fbLen_le_nchunks_mul (Config.one_le_chunkMax_of_legal h.cfg_legal)
    rw [hlast, min_eq_right hcover] at hbytes
    rw [chunkStep_frame, hphase]
    exact { h with
      busy_fbValid := fun _ => hfbValid
      stage_code := fun hstage => by simp [chunkStep_ok_eq, hlast] at hstage
      early_progress := fun hearly => by simp at hearly
      sending_progress := fun hsending => by cases hsending
      complete_progress := fun _ => ⟨hindex.trans hlast, hbytes⟩
      failed_progress := fun hfailed => by cases hfailed }
  · have hphase := (chunkStep_ok_inner_phase hlast).trans hp
    have hnext : s.chunkIndex.toNat + 1 < s.cfg.nchunks := by omega
    rw [min_eq_left (mul_chunkMax_lt_fbLen h.cfg_legal hnext).le] at hbytes
    rw [chunkStep_frame, hphase]
    exact { h with
      busy_fbValid := fun _ => hfbValid
      stage_code := by simpa [chunkStep_ok_eq, hlast] using h.stage_code
      early_progress := fun hearly => by simp at hearly
      sending_progress := fun _ => ⟨hindex.trans_lt hnext, hbytes.trans (by rw [← hindex])⟩
      complete_progress := fun hcomplete => by cases hcomplete
      failed_progress := fun hfailed => by cases hfailed }

theorem State.Inv.chunkStep_err (h : s.Inv) (hp : s.phase = .sending) : (chunkStep .err s).Inv := by
  rw [chunkStep_err_eq]
  exact { h with
    busy_fbValid := fun hbusy => by cases hbusy
    stage_code := fun _ => rfl
    early_progress := fun hearly => by simp at hearly
    sending_progress := fun hsending => by cases hsending
    complete_progress := fun hcomplete => by cases hcomplete
    failed_progress := fun _ => h.sending_progress hp }

/-- A legal block with the values of R40 meets the invariant, whatever its TXLOG and the model's own fields hold. -/
theorem inv_of_reset_values (hl : s.cfg.legal = true)
    (hvalues : s = { State.reset with
      cfg := s.cfg, txlog := s.txlog, inputs := s.inputs, hostLog := s.hostLog, checks := s.checks
      draws := s.draws }) : s.Inv := by
  rw [hvalues]
  exact {
    cfg_legal := hl
    src_wf := rfl
    src_within := rfl
    fb_wf := rfl
    fb_within := rfl
    busy_fbValid := fun _ => rfl
    stage_code := fun hstage => by cases hstage
    early_progress := fun _ => ⟨rfl, rfl⟩
    sending_progress := fun hsending => by cases hsending
    complete_progress := fun hcomplete => by cases hcomplete
    failed_progress := fun hfailed => by cases hfailed }

theorem State.Inv.applyReset (h : s.Inv) : (applyReset s).Inv :=
  inv_of_reset_values ((applyReset_cfg s).symm ▸ h.cfg_legal) rfl

theorem reset_inv : State.reset.Inv := inv_of_reset_values Config.push3_legal rfl

theorem StepEffect.inv (heffect : StepEffect s u) (h : s.Inv) : u.Inv := by
  cases heffect with
  | unchanged => exact h
  | report w code => exact { h with stage_code := fun hstage => by cases hstage }
  | pack w r g b => exact { h with stage_code := fun hstage => by cases hstage }
  | build hevent hbusy =>
    exact { h with
      fb_wf := buildFramebuffer_wf s.cfg s.src
      fb_within := buildFramebuffer_within s.cfg s.src
      busy_fbValid := fun hbusy' => absurd (hbusy.symm.trans hbusy') Bool.false_ne_true
      stage_code := fun hstage => by cases hstage }
  | buildFails =>
    exact { h with busy_fbValid := fun _ => rfl, stage_code := fun hstage => by cases hstage }
  | xor =>
    exact { h with
      fb_wf := obfuscateFb_wf s.cfg h.fb_wf
      fb_within := obfuscateFb_within s.cfg h.fb_within
      busy_fbValid := fun _ => rfl
      stage_code := fun hstage => by cases hstage }
  | send =>
    exact { h with
      busy_fbValid := fun _ => rfl
      stage_code := fun hstage => by cases hstage
      early_progress := fun _ => ⟨rfl, rfl⟩
      sending_progress := fun hsending => by cases hsending
      complete_progress := fun hcomplete => by cases hcomplete
      failed_progress := fun hfailed => by cases hfailed }
  | srcWidth => exact { h with }
  | srcHeight => exact { h with }
  | src addr v j hevent hj =>
    exact { h with
      src_wf := Memory.write_wf j _ h.src_wf
      src_within := Memory.write_within _ hj h.src_within }
  | header a hevent hp => exact h.headerStep hp a
  | pass hevent hp => exact h.obfuscationStep hp
  | chunk a hevent hp =>
    cases a with
    | ok => exact h.chunkStep_ok hp
    | err => exact h.chunkStep_err hp
  | reset => exact h.applyReset

theorem step_inv (h : s.Inv) (hstep : step s = .next t) : t.Inv := by
  obtain ⟨-, u, heffect, hsame⟩ := step_effect hstep
  exact (heffect.inv h).sameBlock hsame

end Invariant

/-! ### The obligation -/

/-- Settles O46: every effect keeps the invariant. -/
theorem stepKeepsStateInvariant : Obligations.StepKeepsStateInvariant := fun _ _ => step_inv

end Sys2Proof.Machine
end

section
/-! What TXLOG says of the frame in progress (R65, R115, R116), and where FB's contents come from (R21, R105): each effect
of a step keeps both. -/

namespace Sys2Proof.Machine

/-! ### The entries of the chunks (R104, R106) -/

section Entries
variable {s : State} {c : Config} {sent : Memory Byte} {chunks : List TxEntry} {n : Nat}

/-- What a chunk step offers is an entry of its chunk of FB. -/
theorem isChunkEntry_chunkBytes (s : State) (i : Nat) (r : TxResult) :
    isChunkEntry s.cfg s.fb i r ⟨s.cfg.epOut, chunkBytes s i, r⟩ :=
  ⟨rfl, length_chunkBytes s i, rfl, fun _ _ => getElem?_chunkBytes_known⟩

theorem deliveredChunks_nil (c : Config) (sent : Memory Byte) : deliveredChunks c sent 0 [] :=
  ⟨rfl, fun k e h => by simp at h⟩

/-- One more chunk delivered, at the end of the list. -/
theorem deliveredChunks_concat {e : TxEntry} (h : deliveredChunks c sent n chunks)
    (he : isChunkEntry c sent n .ok e) : deliveredChunks c sent (n + 1) (chunks ++ [e]) := by
  obtain ⟨rfl, hchunks⟩ := h
  refine ⟨by simp, fun k e' hk => ?_⟩
  rcases lt_trichotomy k chunks.length with hlt | rfl | hgt
  · rw [List.getElem?_append_left hlt] at hk
    exact hchunks k e' hk
  · rw [List.getElem?_concat_length] at hk
    cases hk
    exact he
  · rw [List.getElem?_eq_none (by simp; omega)] at hk
    cases hk

end Entries

/-! ### Each effect keeps the log of the frame -/

section FrameLog
variable {s t u : State} {sent : Memory Byte}

/-- The payload of the frame after a step: FB in SENDING, else what it was. -/
def payloadAfter (t : State) (sent : Memory Byte) : Memory Byte := if t.phase = .sending then t.fb else sent

theorem State.FrameLogged.sameBlock (h : u.FrameLogged (payloadAfter u sent)) (hsame : SameBlock u t) :
    t.FrameLogged (payloadAfter t sent) := by
  obtain ⟨ins, log, found, drawn, rfl⟩ := hsame
  exact { h with }

/-- An effect outside the frame: PHASE, CHUNK_INDEX and TXLOG stay, and in SENDING FB does. -/
theorem State.FrameLogged.of_same (h : s.FrameLogged sent) (hcfg : u.cfg = s.cfg)
    (hphase : u.phase = s.phase) (hindex : u.chunkIndex = s.chunkIndex) (hlog : u.txlog = s.txlog)
    (hfb : s.phase = .sending → u.fb = s.fb) : u.FrameLogged (payloadAfter u sent) := by
  have hpayload : payloadAfter u sent = sent := by
    rw [payloadAfter, hphase]
    split
    · next hp => rw [hfb hp, h.sending_fb hp]
    · rfl
  rw [hpayload]
  exact {
    headerSent_log := by rw [hphase, hlog, hcfg]; exact h.headerSent_log
    sending_fb := by rw [hphase]; exact fun hp => (hfb hp).trans (h.sending_fb hp)
    sending_log := by rw [hphase, hlog, hcfg, hindex]; exact h.sending_log
    complete_log := by rw [hphase, hlog, hcfg]; exact h.complete_log
    failed_log := by rw [hphase, hlog, hcfg, hindex]; exact h.failed_log }

/-- In IDLE and in HEADER nothing of a frame is in TXLOG yet. -/
theorem frameLogged_of_idle_or_header (hp : s.phase = .idle ∨ s.phase = .header) : s.FrameLogged sent := by
  constructor <;> intro hp' <;> simp [hp'] at hp

theorem State.FrameLogged.headerStep (hinv : s.Inv) (hp : s.phase = .header) (a : Answer) :
    (headerStep a s).FrameLogged sent := by
  cases a with
  | ok => constructor <;> intro hp' <;> cases hp'
          exact ⟨s.txlog, rfl⟩
  | err => constructor <;> intro hp' <;> cases hp'
           exact .inl ⟨s.txlog, rfl, (hinv.early_progress (.inr (.inl hp))).1⟩

theorem State.FrameLogged.obfuscationStep (h : s.FrameLogged sent) (hp : s.phase = .headerSent) :
    (obfuscationStep s).FrameLogged (obfuscationStep s).fb := by
  obtain ⟨earlier, hlog⟩ := h.headerSent_log hp
  constructor <;> intro hp' <;> cases hp'
  · rfl
  · exact ⟨earlier, [], hlog, deliveredChunks_nil _ _⟩

/-- An answered chunk is logged after the chunks before it; its payload is FB, which it leaves. -/
theorem State.FrameLogged.chunkStep (hinv : s.Inv) (h : s.FrameLogged sent) (hp : s.phase = .sending)
    (a : Answer) : (chunkStep a s).FrameLogged sent := by
  obtain ⟨earlier, chunks, hlog, hchunks⟩ := h.sending_log hp
  have hlogged : (Machine.chunkStep a s).txlog = earlier ++ headerEntry s.cfg .ok ::
      (chunks ++ [⟨s.cfg.epOut, chunkBytes s s.chunkIndex.toNat, answerResult a⟩]) := by
    rw [chunkStep_txlog, hlog, List.append_assoc, List.cons_append]
  have hentry := isChunkEntry_chunkBytes s s.chunkIndex.toNat (answerResult a)
  rw [h.sending_fb hp] at hentry
  cases a with
  | err =>
    constructor <;> intro hp' <;> cases hp'
    exact .inr ⟨earlier, chunks, _, hlogged, hchunks, hentry⟩
  | ok =>
    have hindex := chunkStep_ok_chunkIndex_toNat hinv.cfg_legal (hinv.sending_progress hp).1
    have hmore := deliveredChunks_concat hchunks hentry
    by_cases hlast : s.chunkIndex.toNat + 1 = s.cfg.nchunks
    · have hphase := chunkStep_ok_last_phase hlast
      constructor <;> intro hp' <;> cases hphase.symm.trans hp'
      rw [chunkStep_cfg]
      exact ⟨earlier, _, hlogged, hlast ▸ hmore⟩
    · have hphase := (chunkStep_ok_inner_phase hlast).trans hp
      constructor <;> intro hp' <;> cases hphase.symm.trans hp'
      · rw [chunkStep_fb, h.sending_fb hp]
      · rw [chunkStep_cfg, hindex]
        exact ⟨earlier, _, hlogged, hmore⟩

theorem payloadAfter_of_not_sending (h : t.phase ≠ .sending) : payloadAfter t sent = sent := if_neg h

theorem StepEffect.frameLogged (heffect : StepEffect s u) (hinv : s.Inv) (h : s.FrameLogged sent) :
    u.FrameLogged (payloadAfter u sent) := by
  have hidle (hbusy : s.busy = false) : s.phase ≠ .sending := fun hp => by
    simp [(busy_iff s).2 (.inr (.inr hp))] at hbusy
  cases heffect with
  | unchanged | report | pack | buildFails | srcWidth | srcHeight | src =>
    exact h.of_same rfl rfl rfl rfl fun _ => rfl
  | build _ hbusy | xor _ hbusy => exact h.of_same rfl rfl rfl rfl fun hp => absurd hp (hidle hbusy)
  | send => exact frameLogged_of_idle_or_header (.inr rfl)
  | reset => exact frameLogged_of_idle_or_header (.inl rfl)
  | header a _ hp =>
    rw [payloadAfter_of_not_sending (by cases a <;> simp)]
    exact .headerStep hinv hp a
  | pass _ hp => exact h.obfuscationStep hp
  | chunk a _ hp =>
    have hpayload : payloadAfter (Machine.chunkStep a s) sent = sent := by
      rw [payloadAfter, chunkStep_fb, h.sending_fb hp, ite_self]
    rw [hpayload]
    exact h.chunkStep hinv hp a

end FrameLog

/-! ### Each effect keeps FB's provenance -/

section Provenance
variable {s t u : State} {built : Memory Byte}

theorem State.FbProvenance.sameBlock (h : u.FbProvenance built) (hsame : SameBlock u t) :
    t.FbProvenance built := by
  obtain ⟨ins, log, found, drawn, rfl⟩ := hsame
  exact { h with }

/-- The step is a BUILD that completes. -/
def State.buildCompletes (s : State) : Prop :=
  s.inputs.head? = some (.write .word 0x004#32 0x02000000#32) ∧ s.busy = false ∧ geometryMatches s = true

theorem lastBuilt_of_build (h : s.buildCompletes) : s.lastBuilt built = buildFramebuffer s.cfg s.src :=
  if_pos h

theorem lastBuilt_of_not_build (h : ¬ s.buildCompletes) : s.lastBuilt built = built := if_neg h

theorem step_of_buildCompletes (h : s.buildCompletes) (hstep : step s = .next t) :
    SameBlock (reportNone { s with fb := buildFramebuffer s.cfg s.src, fbValid := true }) t := by
  obtain ⟨hevent, hbusy, hgeom⟩ := h
  obtain ⟨rest, hinputs⟩ := List.head?_eq_some_iff.1 hevent
  have hexec := exec_build_of_match (s := setInputs rest s) hbusy hgeom
  have hnext := step_of_command (step_effect hstep).1 hinputs decode_build_word hexec
  cases hnext.symm.trans hstep
  exact ⟨_, _, _, _, rfl⟩

/-- Outside a BUILD that completes, each effect keeps FB tied to what the last BUILD wrote: an accepted SEND finds it in
FB, the pass obfuscates it, and nothing else that leaves it in use changes FB. -/
theorem StepEffect.fbProvenance (heffect : StepEffect s u) (hbuild : ¬ s.buildCompletes) (hinv : s.Inv)
    (h : s.FbProvenance built) : u.FbProvenance built := by
  have hidle {p : Phase} (hp : s.phase = p) (hbusy : s.busy = false) (hbusy' : p.busy = true) : False := by
    rw [State.busy, hp, hbusy'] at hbusy
    cases hbusy
  cases heffect with
  | unchanged | report | pack | srcWidth | srcHeight | src => exact { h with }
  | build hevent hbusy hgeom => exact absurd ⟨hevent, hbusy, hgeom⟩ hbuild
  | buildFails => exact { h with valid_built := fun hvalid => by cases hvalid }
  | xor _ hbusy =>
    exact {
      valid_built := fun hvalid => by cases hvalid
      pending_built := fun hp => (hp.elim (hidle · hbusy rfl) (hidle · hbusy rfl)).elim
      sending_obfuscated := fun hp => (hidle hp hbusy rfl).elim }
  | send _ _ hvalid =>
    exact {
      valid_built := fun hvalid' => by cases hvalid'
      pending_built := fun _ => h.valid_built hvalid
      sending_obfuscated := fun hp => by cases hp }
  | header a _ hp =>
    exact {
      valid_built := by simpa using h.valid_built
      pending_built := fun _ => by simpa using h.pending_built (.inl hp)
      sending_obfuscated := fun hp' => by cases a <;> cases hp' }
  | pass _ hp =>
    have hinvalid : s.fbValid = false := hinv.busy_fbValid ((busy_iff s).2 (.inr (.inl hp)))
    exact {
      valid_built := fun hvalid => absurd (hinvalid.symm.trans hvalid) Bool.false_ne_true
      pending_built := fun hp' => by simp at hp'
      sending_obfuscated := fun _ => congrArg (obfuscateFb s.cfg) (h.pending_built (.inr hp)) }
  | chunk a _ hp =>
    exact {
      valid_built := by simpa using h.valid_built
      pending_built := fun hp' => by
        rcases chunkStep_phase a hp with hphase | hphase | hphase <;> simp [hphase] at hp'
      sending_obfuscated := fun _ => by simpa using h.sending_obfuscated hp }
  | reset =>
    exact {
      valid_built := fun hvalid => by cases hvalid
      pending_built := fun hp => by simp at hp
      sending_obfuscated := fun hp => by cases hp }

/-- From a block without a frame in flight only an accepted SEND leads to HEADER. -/
theorem StepEffect.send_of_header (heffect : StepEffect s u) (hbusy : s.busy = false)
    (hp : u.phase = .header) : s.fbValid = true ∧ u.fb = s.fb := by
  have hold : ¬ s.phase = .header := fun hp' => by
    simp [(busy_iff s).2 (.inl hp')] at hbusy
  cases heffect with
  | send _ _ hvalid => exact ⟨hvalid, rfl⟩
  | header a _ hp' => exact absurd hp' hold
  | chunk a _ hp' => rcases chunkStep_phase a hp' with hphase | hphase | hphase <;> cases hphase.symm.trans hp
  | pass | reset => cases hp
  | unchanged | report | pack | build | buildFails | xor | srcWidth | srcHeight | src => exact absurd hp hold

/-- While chunks go out only a reset changes FB. -/
theorem StepEffect.fb_of_sending (heffect : StepEffect s u) (hp : s.phase = .sending)
    (hreset : s.inputs.head? ≠ some .reset) : u.fb = s.fb := by
  have hbusy : s.busy = true := (busy_iff s).2 (.inr (.inr hp))
  cases heffect with
  | build _ hidle | xor _ hidle => cases hbusy.symm.trans hidle
  | header a => exact headerStep_fb a s
  | chunk a => exact chunkStep_fb a s
  | pass _ hp' => cases hp.symm.trans hp'
  | reset hevent => exact absurd hevent hreset
  | unchanged | report | pack | buildFails | send | srcWidth | srcHeight | src => rfl

/-- The framebuffer of a BUILD that completes is FB_VALID, and no frame is in flight. -/
theorem fbProvenance_of_build (hbusy : s.busy = false) :
    (reportNone { s with fb := buildFramebuffer s.cfg s.src, fbValid := true }).FbProvenance
      (buildFramebuffer s.cfg s.src) where
  valid_built _ := rfl
  pending_built _ := rfl
  sending_obfuscated hp := by
    simp [(busy_iff s).2 (.inr (.inr hp))] at hbusy

theorem step_fbProvenance (hinv : s.Inv) (h : s.FbProvenance built) (hstep : step s = .next t) :
    t.FbProvenance (s.lastBuilt built) := by
  by_cases hbuild : s.buildCompletes
  · have ⟨_, hbusy, _⟩ := hbuild
    rw [lastBuilt_of_build hbuild]
    exact (fbProvenance_of_build hbusy).sameBlock (step_of_buildCompletes hbuild hstep)
  · obtain ⟨-, u, heffect, hsame⟩ := step_effect hstep
    rw [lastBuilt_of_not_build hbuild]
    exact (heffect.fbProvenance hbuild hinv h).sameBlock hsame

end Provenance

/-! ### The obligations -/

/-- Settles O48: each effect keeps the log, with FB as the payload in SENDING. -/
theorem stepKeepsFrameLog : Obligations.StepKeepsFrameLog := by
  intro s t sent hinv hlogged hstep
  obtain ⟨-, u, heffect, hsame⟩ := step_effect hstep
  exact (heffect.frameLogged hinv hlogged).sameBlock hsame

/-- Settles O49: what each effect does to FB, and to the block's path into HEADER and through SENDING. -/
theorem stepKeepsFramebufferProvenance : Obligations.StepKeepsFramebufferProvenance := by
  intro s t built hinv hprov hstep
  refine ⟨step_fbProvenance hinv hprov hstep, ?_⟩
  obtain ⟨-, u, heffect, ins, log, found, drawn, rfl⟩ := step_effect hstep
  refine ⟨fun hbusy hp => ?accepted, fun hp hreset => ?sending⟩
  case accepted =>
    obtain ⟨hvalid, hfb⟩ := heffect.send_of_header hbusy hp
    exact ⟨hvalid, hprov.valid_built hvalid, hfb.trans (hprov.valid_built hvalid)⟩
  case sending => exact (heffect.fb_of_sending hp hreset).trans (hprov.sending_obfuscated hp)

/-- Settles O47: the values of R40 meet the invariant, and in IDLE with FB_VALID = 0 the other two say nothing. -/
theorem resetMeetsStateInvariant : Obligations.ResetMeetsStateInvariant := by
  refine ⟨reset_inv, fun m => ⟨?provenance, frameLogged_of_idle_or_header (.inl rfl)⟩⟩
  case provenance => constructor <;> intro h <;> simp [State.reset] at h

end Sys2Proof.Machine
end

section
/-! The rules about every step: which event changes FB_VALID, FB, RESULT, SRC, the declared geometry and ERROR (10_state.md),
what the Host can do to a frame in flight, and how a frame ends (43_frame_protocol.md section 3). -/

namespace Sys2Proof.Machine

/-! ### A block that no event moves (R41, R112, R114) -/

section Quiet
variable {s t : State}

theorem transportAnswer_of_not_busy (a : Answer) (h : s.busy = false) : transportAnswer a s = s := by
  unfold transportAnswer
  rcases (busy_false_iff s).1 h with hp | hp | hp <;> rw [hp]

theorem enginePass_of_ne (h : s.phase ≠ .headerSent) : enginePass s = s := by
  rcases enginePass_cases s with ⟨hp, -⟩ | ⟨-, he⟩
  · exact absurd hp h
  · exact he

theorem phase_ne_of_not_busy {p : Phase} (h : s.busy = false) (hp : p.busy = true) : s.phase ≠ p := by
  rintro rfl
  exact Bool.false_ne_true (h.symm.trans hp)

/-- With no write outstanding a reset abandons none. -/
theorem applyReset_txlog_of_none (h : outstandingWrite s = none) : (applyReset s).txlog = s.txlog := by
  change (abandonWrite s).txlog = s.txlog
  rw [abandonWrite, h]

theorem step_of_no_input (hl : s.cfg.legal = true) (hi : s.inputs = []) : step s = .next (enginePass s) := by
  rw [step_eq_of_legal hl, takeInput, hi]

theorem run_of_step_self (h : step s = .next s) (n : Nat) : core.run n s = .next s := by
  induction n with
  | zero => rfl
  | succ n ih => rw [run_succ_of_step h, ih]

/-- An event that no Engine step waits for, in a phase without a frame in flight, is only taken off the schedule. -/
theorem step_of_stray_event {e : Input} {rest : List Input} (hl : s.cfg.legal = true)
    (hbusy : s.busy = false) (hi : s.inputs = e :: rest) (he : (∃ a, e = .answer a) ∨ e = .enginePass) :
    step s = .next (setInputs rest s) := by
  have hbusy' : (setInputs rest s).busy = false := hbusy
  rw [step_of_input hl hi]
  rcases he with ⟨a, rfl⟩ | rfl
  · rw [handleInput, transportAnswer_of_not_busy a hbusy']
  · rw [handleInput, enginePass_of_ne (phase_ne_of_not_busy hbusy' rfl)]

theorem step_next (hl : s.cfg.legal = true) : ∃ t, step s = .next t := by
  cases hi : s.inputs with
  | nil => exact ⟨_, step_of_no_input hl hi⟩
  | cons e rest =>
    rw [step_of_input hl hi]
    cases e with
    | write width addr v =>
      rcases writeTransaction_cases width addr v (setInputs rest s) with ⟨t, -, h⟩ | ⟨-, h⟩ <;> exact ⟨_, h⟩
    | read | answer | enginePass | reset | waitIdle | checkErr => exact ⟨_, rfl⟩

end Quiet

/-! ### The frame in flight -/

section Frame
variable {s t u : State}

/-- In COMPLETE and FAILED the effects left are the Host's and the reset. -/
theorem StepEffect.terminal (heffect : StepEffect s u) (hbusy : s.busy = false) :
    u.txlog = s.txlog ∧
    (u.phase = s.phase ∨
      (s.inputs.head? = some .reset ∧ u.phase = .idle) ∨
      (s.inputs.head? = some (.write .word 0x004#32 0x04000000#32) ∧ s.fbValid = true ∧
        u.phase = .header)) := by
  cases heffect with
  | send hevent _ hvalid => exact ⟨rfl, .inr (.inr ⟨hevent, hvalid, rfl⟩)⟩
  | header _ _ hp | pass _ hp | chunk _ _ hp => exact absurd hp (phase_ne_of_not_busy hbusy rfl)
  | reset hevent =>
    exact ⟨applyReset_txlog_of_none (outstandingWrite_of_not_busy hbusy), .inr (.inl ⟨hevent, rfl⟩)⟩
  | unchanged | report | pack | build | buildFails | xor | srcWidth | srcHeight | src => exact ⟨rfl, .inl rfl⟩

/-- `t` has the frame of `s`, as far as a host transaction could touch it. -/
def SameFrame (s t : State) : Prop :=
  t.phase = s.phase ∧ t.chunkIndex = s.chunkIndex ∧ t.bytesSent = s.bytesSent ∧ t.fb = s.fb ∧
    t.fbValid = s.fbValid ∧ t.txlog = s.txlog

/-- While a frame is in flight only the Engine's own events and the reset touch it. -/
theorem StepEffect.sameFrame (heffect : StepEffect s u) (hbusy : s.busy = true)
    (hevent : ∀ e, s.inputs.head? = some e → ¬ engineEvent s e)
    (hreset : s.inputs.head? ≠ some .reset) (hpending : s.inputs.head? ≠ none) : SameFrame s u := by
  cases heffect with
  | pack _ _ _ _ _ hidle | build _ hidle | buildFails _ hidle | xor _ hidle | send _ hidle =>
    cases hbusy.symm.trans hidle
  | header a hhead hp => exact absurd (.inl ⟨.inl hp, a, rfl⟩) (hevent _ hhead)
  | chunk a hhead hp => exact absurd (.inl ⟨.inr hp, a, rfl⟩) (hevent _ hhead)
  | pass hhead hp =>
    rcases hhead with hhead | hhead
    · exact absurd hhead hpending
    · exact absurd (.inr ⟨hp, rfl⟩) (hevent _ hhead)
  | reset hhead => exact absurd hhead hreset
  | unchanged | report | srcWidth | srcHeight | src => exact ⟨rfl, rfl, rfl, rfl, rfl, rfl⟩

end Frame

/-! ### The steps still to go (R114, R150) -/

section StepsToGo
variable {s t u : State}

theorem stepsToGo_of_header (hp : s.phase = .header) : s.stepsToGo = s.cfg.nchunks + 2 := by
  rw [State.stepsToGo, hp]

theorem stepsToGo_of_headerSent (hp : s.phase = .headerSent) : s.stepsToGo = s.cfg.nchunks + 1 := by
  rw [State.stepsToGo, hp]

theorem stepsToGo_of_sending (hp : s.phase = .sending) :
    s.stepsToGo = s.cfg.nchunks - s.chunkIndex.toNat := by rw [State.stepsToGo, hp]

theorem stepsToGo_of_ended (h : s.frameEnded) : s.stepsToGo = 0 := by
  rcases h with hp | hp <;> rw [State.stepsToGo, hp]

theorem stepsToGo_of_sameFrame (hcfg : t.cfg = s.cfg) (h : SameFrame s t) : t.stepsToGo = s.stepsToGo := by
  obtain ⟨hphase, hindex, -⟩ := h
  rw [State.stepsToGo, State.stepsToGo, hcfg, hphase, hindex]

/-- The frame of `t` is nearer its end than that of `s`, and at its end where nothing is left to do. -/
def Nearer (s t : State) : Prop := t.stepsToGo < s.stepsToGo ∧ (t.stepsToGo = 0 ↔ t.frameEnded)

theorem nearer_of_ended (h : t.frameEnded) (hs : 0 < s.stepsToGo) : Nearer s t := by
  have hzero := stepsToGo_of_ended h
  exact ⟨by omega, fun _ => h, fun _ => hzero⟩

theorem nearer_of_running (hbusy : t.busy = true) (hpos : 0 < t.stepsToGo)
    (hlt : t.stepsToGo < s.stepsToGo) : Nearer s t := by
  refine ⟨hlt, fun hzero => absurd hzero (by omega), fun hended => ?_⟩
  have hidle : t.busy = false := (busy_false_iff t).2 (.inr hended)
  cases hbusy.symm.trans hidle

theorem headerStep_nearer (a : Answer) (hp : s.phase = .header) : Nearer s (headerStep a s) := by
  have hs := stepsToGo_of_header hp
  cases a with
  | err => exact nearer_of_ended (.inr rfl) (by omega)
  | ok =>
    have hnext := stepsToGo_of_headerSent (headerStep_ok_phase s)
    rw [headerStep_cfg] at hnext
    exact nearer_of_running rfl (by omega) (by omega)

theorem obfuscationStep_nearer (hl : s.cfg.legal = true) (hp : s.phase = .headerSent) :
    Nearer s (obfuscationStep s) := by
  have hs := stepsToGo_of_headerSent hp
  have hchunks := Config.one_le_nchunks_of_legal hl
  have hnext : (obfuscationStep s).stepsToGo = s.cfg.nchunks - 0 := stepsToGo_of_sending rfl
  exact nearer_of_running rfl (by omega) (by omega)

theorem chunkStep_nearer (a : Answer) (hl : s.cfg.legal = true) (hp : s.phase = .sending)
    (hi : s.chunkIndex.toNat < s.cfg.nchunks) : Nearer s (chunkStep a s) := by
  have hs := stepsToGo_of_sending hp
  cases a with
  | err => exact nearer_of_ended (.inr rfl) (by omega)
  | ok =>
    by_cases hlast : s.chunkIndex.toNat + 1 = s.cfg.nchunks
    · exact nearer_of_ended (.inl (chunkStep_ok_last_phase hlast)) (by omega)
    · have hphase := (chunkStep_ok_inner_phase hlast).trans hp
      have hnext := stepsToGo_of_sending hphase
      rw [chunkStep_cfg, chunkStep_ok_chunkIndex_toNat hl hi] at hnext
      exact nearer_of_running ((busy_iff _).2 (.inr (.inr hphase))) (by omega) (by omega)

/-- The event that the Engine waits for makes the Engine's step. -/
theorem StepEffect.nearer {e : Input} (heffect : StepEffect s u) (hinv : s.Inv)
    (hhead : s.inputs.head? = some e) (he : engineEvent s e) : Nearer s u := by
  have hhost (h : e.fromHost = true) : Nearer s u := absurd he (not_engineEvent_of_fromHost h)
  cases heffect with
  | unchanged hevent => exact absurd he (hevent e hhead)
  | header a _ hp => exact headerStep_nearer a hp
  | pass _ hp => exact obfuscationStep_nearer hinv.cfg_legal hp
  | chunk a _ hp => exact chunkStep_nearer a hinv.cfg_legal hp (hinv.sending_progress hp).1
  | reset hevent =>
    cases hhead.symm.trans hevent
    rcases he with ⟨-, a, he⟩ | ⟨-, he⟩ <;> cases he
  | report _ _ hevent | pack _ _ _ _ hevent | build hevent | buildFails hevent | xor hevent | send hevent
  | srcWidth _ hevent | srcHeight _ hevent | src _ _ _ hevent =>
    cases hhead.symm.trans hevent
    exact hhost rfl

end StepsToGo

/-! ### What changes each register and memory (R24, R27, R37, R122) -/

section Changes
variable {s t u : State}

/-- Nothing changes the parameters (R8). -/
theorem StepEffect.cfg (heffect : StepEffect s u) : u.cfg = s.cfg := by
  cases heffect with
  | header a => exact headerStep_cfg a s
  | chunk a => exact chunkStep_cfg a s
  | reset => exact applyReset_cfg s
  | unchanged | report | pack | build | buildFails | xor | send | srcWidth | srcHeight | src | pass => rfl

/-- A bit that a step leaves alone is neither set nor cleared by it. -/
theorem bit_kept {b b' : Bool} {P Q : Prop} (h : b' = b) :
    (b = false → b' = true → P) ∧ (b = true → b' = false → Q) := by
  subst h
  constructor <;> intro h h' <;> cases h.symm.trans h'

end Changes

/-! ### The obligations -/

/-- Settles O22: the effects left without a frame in flight, and the step of an event that nothing waits for. -/
theorem terminalPhasesHaveNoEngineStep : Obligations.TerminalPhasesHaveNoEngineStep := by
  intro s t hended hstep
  have hbusy : s.busy = false := (busy_false_iff s).2 (.inr hended)
  obtain ⟨hl, u, heffect, ins, log, found, drawn, rfl⟩ := step_effect hstep
  obtain ⟨hlog, hphase⟩ := heffect.terminal hbusy
  refine ⟨hlog, hphase, fun hstray => ?_⟩
  obtain ⟨e, hhead, he⟩ : ∃ e, s.inputs.head? = some e ∧ ((∃ a, e = .answer a) ∨ e = .enginePass) := by
    rcases hstray with ⟨a, hhead⟩ | hhead
    · exact ⟨_, hhead, .inl ⟨a, rfl⟩⟩
    · exact ⟨_, hhead, .inr rfl⟩
  obtain ⟨rest, hi⟩ := List.head?_eq_some_iff.1 hhead
  have hnext := hstep.symm.trans (step_of_stray_event hl hbusy hi he)
  rw [hi]
  exact Host.Outcome.next.inj hnext

/-- Settles O23: without an event only HEADER_SENT moves, and a command's BUSY report moves nothing of the frame. -/
theorem unansweredWriteKeepsBlockBusy : Obligations.UnansweredWriteKeepsBlockBusy := by
  intro s hl hp
  refine ⟨fun hi n => run_of_step_self ?waits n, fun i t hexec => ?rejected⟩
  case waits =>
    have hpass : s.phase ≠ .headerSent := by rcases hp with hp | hp <;> simp [hp]
    rw [step_of_no_input hl hi, enginePass_of_ne hpass]
  case rejected =>
    have hbusy : s.busy = true := (busy_iff s).2 (hp.imp_right .inr)
    cases (exec_of_busy i hbusy).symm.trans hexec
    exact ⟨rfl, hbusy⟩

/-- Settles O52: BUILD sets the bit, and BUILD, XOR, SEND and the reset clear it; every other effect keeps it. -/
theorem fbValidChangesOnlyAsAllowed : Obligations.FbValidChangesOnlyAsAllowed := by
  intro s t hstep
  obtain ⟨-, u, heffect, ins, log, found, drawn, rfl⟩ := step_effect hstep
  cases heffect with
  | build hevent hbusy hgeom =>
    exact ⟨fun _ _ => ⟨hevent, hbusy, (geometryMatches_iff s).1 hgeom⟩, fun _ hclear => by cases hclear⟩
  | buildFails hevent hbusy hgeom =>
    exact ⟨fun _ hset => absurd hset Bool.false_ne_true,
      fun _ _ => .inr (.inl ⟨hevent, hbusy, (geometryMatches_false s).1 hgeom⟩)⟩
  | xor hevent hbusy =>
    exact ⟨fun _ hset => absurd hset Bool.false_ne_true, fun _ _ => .inr (.inr (.inl ⟨hevent, hbusy⟩))⟩
  | send hevent hbusy =>
    exact ⟨fun _ hset => absurd hset Bool.false_ne_true, fun _ _ => .inr (.inr (.inr ⟨hevent, hbusy⟩))⟩
  | reset hevent => exact ⟨fun _ hset => absurd hset Bool.false_ne_true, fun _ _ => .inl hevent⟩
  | header a => exact bit_kept (headerStep_fbValid a s)
  | chunk a => exact bit_kept (chunkStep_fbValid a s)
  | unchanged | report | pack | srcWidth | srcHeight | src | pass => exact bit_kept rfl

/-- Settles O53: BUILD, XOR, the pass and the reset write FB; every other effect keeps it. -/
theorem framebufferChangesOnlyAsAllowed : Obligations.FramebufferChangesOnlyAsAllowed := by
  intro s t hstep hne
  obtain ⟨-, u, heffect, ins, log, found, drawn, rfl⟩ := step_effect hstep
  cases heffect with
  | build hevent hbusy => exact .inr (.inl ⟨.inl hevent, hbusy⟩)
  | xor hevent hbusy => exact .inr (.inl ⟨.inr hevent, hbusy⟩)
  | pass hevent hp => exact .inr (.inr ⟨hp, hevent⟩)
  | reset hevent => exact .inl hevent
  | header a => exact absurd (headerStep_fb a s) hne
  | chunk a => exact absurd (chunkStep_fb a s) hne
  | unchanged | report | pack | buildFails | send | srcWidth | srcHeight | src => exact absurd rfl hne

/-- Settles O54: each of the four has one effect that writes it, besides the reset. -/
theorem otherStateChangesOnlyAsAllowed : Obligations.OtherStateChangesOnlyAsAllowed := by
  intro s t hstep
  obtain ⟨-, u, heffect, ins, log, found, drawn, rfl⟩ := step_effect hstep
  refine ⟨heffect.cfg, ?_⟩
  cases heffect with
  | pack w r g b hevent _ hdecode =>
    exact ⟨fun _ => .inr ⟨w, r, g, b, hevent, hdecode⟩, fun h => absurd rfl h, fun h => absurd rfl h,
      fun h => absurd rfl h⟩
  | src addr v j hevent hj haddr =>
    have hwindow : 0x00100000 ≤ addr.toNat ∧
        addr.toNat < 0x00100000 + 4 * (s.cfg.width * s.cfg.height) := by
      unfold srcBase at haddr
      unfold Config.pixels at hj
      omega
    exact ⟨fun h => absurd rfl h, fun _ => .inr ⟨addr, v, hevent, hwindow⟩, fun h => absurd rfl h,
      fun h => absurd rfl h⟩
  | srcWidth v hevent =>
    exact ⟨fun h => absurd rfl h, fun h => absurd rfl h, fun _ => .inr ⟨v, hevent⟩, fun h => absurd rfl h⟩
  | srcHeight v hevent =>
    exact ⟨fun h => absurd rfl h, fun h => absurd rfl h, fun h => absurd rfl h, fun _ => .inr ⟨v, hevent⟩⟩
  | reset hevent => exact ⟨fun _ => .inl hevent, fun _ => .inl hevent, fun _ => .inl hevent, fun _ => .inl hevent⟩
  | header a =>
    exact ⟨fun h => absurd (headerStep_result a s) h, fun h => absurd (headerStep_src a s) h,
      fun h => absurd (headerStep_srcWidth a s) h, fun h => absurd (headerStep_srcHeight a s) h⟩
  | chunk a =>
    exact ⟨fun h => absurd (chunkStep_result a s) h, fun h => absurd (chunkStep_src a s) h,
      fun h => absurd (chunkStep_srcWidth a s) h, fun h => absurd (chunkStep_srcHeight a s) h⟩
  | unchanged | report | build | buildFails | xor | send | pass =>
    exact ⟨fun h => absurd rfl h, fun h => absurd rfl h, fun h => absurd rfl h, fun h => absurd rfl h⟩

/-- Settles O55: a command reports its outcome, and an answer only where it ends the frame. -/
theorem errorChangesOnlyAsAllowed : Obligations.ErrorChangesOnlyAsAllowed := by
  intro s t hstep hne
  obtain ⟨-, u, heffect, ins, log, found, drawn, rfl⟩ := step_effect hstep
  cases heffect with
  | report w _ hevent | pack w _ _ _ hevent => exact .inr (.inl ⟨w, hevent⟩)
  | build hevent | buildFails hevent | xor hevent | send hevent => exact .inr (.inl ⟨_, hevent⟩)
  | reset hevent => exact .inl hevent
  | header a hevent hp =>
    cases a with
    | ok => exact absurd rfl hne
    | err =>
      refine .inr (.inr ⟨(busy_iff s).2 (.inl hp), ⟨_, hevent⟩, .inr ⟨rfl, rfl, ?_⟩⟩)
      simp [headerStep, hp]
  | chunk a hevent hp =>
    have hbusy : s.busy = true := (busy_iff s).2 (.inr (.inr hp))
    cases a with
    | err => exact .inr (.inr ⟨hbusy, ⟨_, hevent⟩, .inr ⟨rfl, rfl, fun _ => hp, fun _ => rfl⟩⟩)
    | ok =>
      rw [chunkStep_ok_eq] at hne ⊢
      by_cases hlast : s.chunkIndex.toNat + 1 = s.cfg.nchunks
      · exact .inr (.inr ⟨hbusy, ⟨_, hevent⟩, .inl ⟨if_pos hlast, if_pos hlast⟩⟩)
      · exact absurd (if_neg hlast) hne
  | unchanged | srcWidth | srcHeight | src | pass => exact absurd rfl hne

/-- Settles O57: each event has a step, and the pass is tried where none is pending. -/
theorem legalBlockNeverStops : Obligations.LegalBlockNeverStops := fun _ => step_next

/-- Settles O59: the Engine waits for no host event, and a host event is no reset. -/
theorem hostCannotDisturbFrameInFlight : Obligations.HostCannotDisturbFrameInFlight := by
  intro s t hbusy hstep ⟨e, hhead, hhost⟩
  obtain ⟨-, u, heffect, ins, log, found, drawn, rfl⟩ := step_effect hstep
  refine heffect.sameFrame hbusy (fun e' he' => ?_) (fun hreset => ?_) (by simp [hhead])
  · cases hhead.symm.trans he'
    exact not_engineEvent_of_fromHost hhost
  · cases hhead.symm.trans hreset
    cases hhost

/-- Settles O60: an awaited event makes the Engine's step, and no other event but a reset touches the frame. -/
theorem engineEventsEndFrame : Obligations.EngineEventsEndFrame := by
  intro s t e hinv hbusy hhead hstep
  obtain ⟨-, u, heffect, ins, log, found, drawn, rfl⟩ := step_effect hstep
  refine ⟨fun he => heffect.nearer hinv hhead he, fun he hreset => ?_⟩
  have hsame : SameFrame s u := by
    refine heffect.sameFrame hbusy (fun e' he' => ?_) (fun hreset' => ?_) (by simp [hhead])
    · cases hhead.symm.trans he'
      exact he
    · cases hhead.symm.trans hreset'
      exact hreset rfl
  have ⟨hphase, _⟩ := hsame
  exact ⟨stepsToGo_of_sameFrame heffect.cfg hsame, hphase⟩

end Sys2Proof.Machine
end

section
/-! Whole frames (43_frame_protocol.md): the chunks in order are the payload (R107), and the runs in which every write
answers Ok, or one chunk's write answers Err (R105, R115, R116). -/

namespace Sys2Proof.Machine

/-! ### Lists of chunks (R106, R107) -/

section Chunks
variable {c : Config} {chunks : List (List Byte)}

/-- The list's chunks have the lengths of the payload's first chunks, in order. -/
def ChunkLengths (c : Config) (chunks : List (List Byte)) : Prop :=
  ∀ k bytes, chunks[k]? = some bytes → bytes.length = chunkLen c k

theorem chunkLengths_concat {last : List Byte} :
    ChunkLengths c (chunks ++ [last]) ↔ ChunkLengths c chunks ∧ last.length = chunkLen c chunks.length := by
  constructor
  · intro h
    refine ⟨fun k bytes hk => h k bytes ?_, h chunks.length last (by simp)⟩
    rw [List.getElem?_append_left (List.getElem?_eq_some_iff.1 hk).1, hk]
  · rintro ⟨h, hlast⟩ k bytes hk
    rcases lt_trichotomy k chunks.length with hlt | rfl | hgt
    · rw [List.getElem?_append_left hlt] at hk
      exact h k bytes hk
    · rw [List.getElem?_concat_length] at hk
      cases hk
      exact hlast
    · rw [List.getElem?_eq_none (by simp; omega)] at hk
      cases hk

/-- The first `n` chunks hold the first `n * CHUNK_MAX` bytes of the payload, or all of it where that is less. -/
theorem length_flatten_chunks (hl : c.legal = true) (h : ChunkLengths c chunks)
    (hn : chunks.length ≤ c.nchunks) :
    chunks.flatten.length = min (chunks.length * c.chunkMax) c.fbLen := by
  induction chunks using List.reverseRecOn with
  | nil => simp
  | append_singleton chunks last ih =>
    obtain ⟨hinit, hlast⟩ := chunkLengths_concat.1 h
    rw [List.length_append, List.length_singleton] at hn ⊢
    have hstart := mul_chunkMax_lt_fbLen hl hn
    rw [List.flatten_append, List.length_append, ih hinit (by omega), min_eq_left hstart.le]
    simpa [hlast] using mul_chunkMax_add_chunkLen hl hn

/-- Byte `j` of chunk `k` is the payload's byte at `j` past the chunk's start. -/
theorem getElem?_flatten_chunks (hl : c.legal = true) (h : ChunkLengths c chunks)
    (hn : chunks.length ≤ c.nchunks) {k j : Nat} {bytes : List Byte} (hk : chunks[k]? = some bytes)
    (hj : j < chunkLen c k) : chunks.flatten[chunkStart c k + j]? = bytes[j]? := by
  induction chunks using List.reverseRecOn with
  | nil => simp at hk
  | append_singleton chunks last ih =>
    obtain ⟨hinit, hlast⟩ := chunkLengths_concat.1 h
    rw [List.length_append, List.length_singleton] at hn
    have hlen := length_flatten_chunks hl hinit (by omega)
    have hstart := mul_chunkMax_lt_fbLen hl hn
    rw [min_eq_left hstart.le] at hlen
    rw [List.flatten_append, List.flatten_singleton]
    rcases lt_or_ge k chunks.length with hlt | hge
    · rw [List.getElem?_append_left hlt] at hk
      have hnext : (k + 1) * c.chunkMax ≤ chunks.length * c.chunkMax := Nat.mul_le_mul_right _ hlt
      have hend : chunkStart c k + chunkLen c k ≤ (k + 1) * c.chunkMax :=
        (mul_chunkMax_add_chunkLen hl (by omega)).le.trans (min_le_left _ _)
      rw [List.getElem?_append_left (by omega)]
      exact ih hinit (by omega) hk
    · have hlt := (List.getElem?_eq_some_iff.1 hk).1
      have hlast : k = chunks.length := by simp at hlt; omega
      subst hlast
      rw [List.getElem?_concat_length] at hk
      cases hk
      rw [List.getElem?_append_right (by unfold chunkStart; omega), hlen, chunkStart, Nat.add_sub_cancel_left]

/-- Every index of the payload is in one of its chunks. -/
theorem exists_chunk_of_lt (hl : c.legal = true) {i : Nat} (hi : i < c.fbLen) :
    ∃ k j, k < c.nchunks ∧ j < chunkLen c k ∧ i = chunkStart c k + j := by
  have hmax := Config.one_le_chunkMax_of_legal hl
  have hcover := Config.fbLen_le_nchunks_mul hmax
  have hk : i / c.chunkMax < c.nchunks := (Nat.div_lt_iff_lt_mul hmax).2 (by omega)
  have hsum := mul_chunkMax_add_chunkLen hl hk
  have hdiv := Nat.div_add_mod' i c.chunkMax
  have hmod := Nat.mod_lt i hmax
  rw [Nat.succ_mul] at hsum
  exact ⟨i / c.chunkMax, i % c.chunkMax, hk, by omega, hdiv.symm⟩

/-- The bounds of a chunk's length: the chunk starts inside the payload. -/
theorem chunkLen_bounds (hl : c.legal = true) {i : Nat} (hi : i < c.nchunks) :
    1 ≤ chunkLen c i ∧ chunkLen c i ≤ c.chunkMax := by
  have hmax := Config.one_le_chunkMax_of_legal hl
  have hstart := mul_chunkMax_lt_fbLen hl hi
  rw [chunkLen_eq, Nat.succ_mul]
  omega

theorem nchunks_eq_one (hl : c.legal = true) (h : c.fbLen ≤ c.chunkMax) : c.nchunks = 1 := by
  have hpos := Config.one_le_nchunks_of_legal hl
  have hle : c.nchunks ≤ 1 := (ceilDiv_le_iff (Config.one_le_chunkMax_of_legal hl)).2 (by omega)
  omega

theorem chunkLen_push3 {i : Nat} (hi : i < 20) : chunkLen Config.push3 i = 16384 := by
  have hmax : Config.push3.chunkMax = 16384 := rfl
  rw [chunkLen_eq, Config.push3_fbLen, hmax]
  omega

theorem chunkLengths_chunkBytes (s : State) (n : Nat) :
    ChunkLengths s.cfg ((List.range n).map (chunkBytes s)) := by
  intro k bytes hk
  obtain ⟨hlt, rfl⟩ := List.getElem?_eq_some_iff.1 hk
  simp

/-- Where FB is a payload, byte for byte, its chunks in order are that payload. -/
theorem flatMap_chunkBytes {s : State} {payload : List Byte} (hl : s.cfg.legal = true)
    (hlen : payload.length = s.cfg.fbLen) (hread : ∀ i < s.cfg.fbLen, s.fb.read i = payload[i]?) :
    (List.range s.cfg.nchunks).flatMap (chunkBytes s) = payload := by
  have hlengths := chunkLengths_chunkBytes s s.cfg.nchunks
  have hcount : ((List.range s.cfg.nchunks).map (chunkBytes s)).length ≤ s.cfg.nchunks := by simp
  have htotal := length_flatten_chunks hl hlengths hcount
  have hcover := Config.fbLen_le_nchunks_mul (Config.one_le_chunkMax_of_legal hl)
  rw [List.length_map, List.length_range, min_eq_right hcover] at htotal
  rw [List.flatMap_def]
  apply List.ext_getElem?
  intro i
  rcases lt_or_ge i s.cfg.fbLen with hi | hi
  · obtain ⟨k, j, hk, hj, rfl⟩ := exists_chunk_of_lt hl hi
    have hchunk : ((List.range s.cfg.nchunks).map (chunkBytes s))[k]? = some (chunkBytes s k) := by
      simp [hk]
    rw [getElem?_flatten_chunks hl hlengths hcount hchunk hj]
    obtain ⟨b, hb⟩ : ∃ b, payload[chunkStart s.cfg k + j]? = some b :=
      ⟨_, List.getElem?_eq_getElem (by omega)⟩
    rw [getElem?_chunkBytes_known hj ((hread _ hi).trans hb), hb]
  · rw [List.getElem?_eq_none (by omega), List.getElem?_eq_none (by omega)]

end Chunks

/-! ### The run of a frame (R105, R115) -/

section FrameRun
variable {s t : State} {rest : List Input}

/-- `t` is what `n` answers Ok make of a block `s` in SENDING with CHUNK_INDEX 0: they have delivered the first `n`
chunks of FB. -/
structure ChunksAnswered (s : State) (n : Nat) (rest : List Input) (t : State) : Prop where
  run : core.run n s = .next t
  inv : t.Inv
  cfg_eq : t.cfg = s.cfg
  fb_eq : t.fb = s.fb
  inputs_eq : t.inputs = rest
  index_eq : t.chunkIndex.toNat = n
  running : n < s.cfg.nchunks → t.phase = .sending
  ended : n = s.cfg.nchunks → t.phase = .complete ∧ t.error = ⟨.noError, false⟩
  log : ∃ chunks, t.txlog = s.txlog ++ chunks ∧ deliveredChunks s.cfg s.fb n chunks

theorem ChunksAnswered.zero (hinv : s.Inv) (hp : s.phase = .sending) (hindex : s.chunkIndex.toNat = 0)
    (hi : s.inputs = rest) : ChunksAnswered s 0 rest s where
  run := rfl
  inv := hinv
  cfg_eq := rfl
  fb_eq := rfl
  inputs_eq := hi
  index_eq := hindex
  running _ := hp
  ended hn := by
    have hchunks := Config.one_le_nchunks_of_legal hinv.cfg_legal
    omega
  log := ⟨[], (List.append_nil _).symm, deliveredChunks_nil _ _⟩

theorem run_concat {n : Nat} {u : State} (h : core.run n s = .next t) (hstep : step t = .next u) :
    core.run (n + 1) s = .next u := by
  rw [run_add_of_run h, run_succ_of_step hstep, run_zero]

/-- One answer Ok more delivers one chunk more. -/
theorem ChunksAnswered.succ {n : Nat} (h : ChunksAnswered s n (.answer .ok :: rest) t)
    (hn : n < s.cfg.nchunks) : ChunksAnswered s (n + 1) rest (chunkStep .ok (setInputs rest t)) := by
  have hp := h.running hn
  have hstep := step_of_answer_sending h.inv.cfg_legal hp h.inputs_eq
  have hcfg := h.cfg_eq
  have hindex : (setInputs rest t).chunkIndex.toNat = n := h.index_eq
  have hi : (setInputs rest t).chunkIndex.toNat < (setInputs rest t).cfg.nchunks := by
    rwa [hindex, setInputs_cfg, hcfg]
  obtain ⟨chunks, hlog, hchunks⟩ := h.log
  have hentry := isChunkEntry_chunkBytes (setInputs rest t) n .ok
  rw [setInputs_cfg, setInputs_fb, hcfg, h.fb_eq] at hentry
  exact {
    run := run_concat h.run hstep
    inv := step_inv h.inv hstep
    cfg_eq := by rw [chunkStep_cfg, setInputs_cfg, hcfg]
    fb_eq := by rw [chunkStep_fb, setInputs_fb, h.fb_eq]
    inputs_eq := by rw [chunkStep_frame]; rfl
    index_eq := by rw [chunkStep_ok_chunkIndex_toNat (s := setInputs rest t) h.inv.cfg_legal hi, hindex]
    running := fun hmore => by
      rw [chunkStep_ok_inner_phase (by rw [hindex, setInputs_cfg, hcfg]; omega), setInputs_phase, hp]
    ended := fun hlast => by
      have hlast' : (setInputs rest t).chunkIndex.toNat + 1 = (setInputs rest t).cfg.nchunks := by
        rw [hindex, setInputs_cfg, hcfg, hlast]
      rw [chunkStep_ok_eq]
      exact ⟨if_pos hlast', if_pos hlast'⟩
    log := by
      refine ⟨_, ?_, deliveredChunks_concat hchunks hentry⟩
      rw [chunkStep_txlog, setInputs_txlog, hlog, List.append_assoc, hindex, setInputs_cfg, hcfg]
      rfl }

/-- A run in which the first `n` chunks answer Ok. -/
theorem exists_chunksAnswered {n : Nat} (hinv : s.Inv) (hp : s.phase = .sending)
    (hindex : s.chunkIndex.toNat = 0) (hn : n ≤ s.cfg.nchunks)
    (hi : s.inputs = List.replicate n (.answer .ok) ++ rest) : ∃ t, ChunksAnswered s n rest t := by
  induction n generalizing rest with
  | zero => exact ⟨s, .zero hinv hp hindex hi⟩
  | succ n ih =>
    rw [List.replicate_succ', List.append_assoc] at hi
    obtain ⟨t, ht⟩ := ih (by omega) hi
    exact ⟨_, ht.succ hn⟩

/-- The run of a frame up to its first chunk: the header's answer and the pass. -/
theorem run_to_sending (hinv : s.Inv) (hp : s.phase = .header)
    (hi : s.inputs = .answer .ok :: .enginePass :: rest) :
    ∃ t, core.run 2 s = .next t ∧ t.Inv ∧ t.cfg = s.cfg ∧ t.fb = obfuscateFb s.cfg s.fb ∧ t.inputs = rest ∧
      t.phase = .sending ∧ t.chunkIndex.toNat = 0 ∧ t.txlog = s.txlog ++ [headerEntry s.cfg .ok] := by
  have hheader := step_of_answer_header hinv.cfg_legal hp hi
  have hinv' := step_inv hinv hheader
  have hpass := step_of_pass_headerSent (s := headerStep .ok (setInputs (.enginePass :: rest) s)) (rest := rest)
    hinv'.cfg_legal rfl rfl
  exact ⟨_, run_concat (run_concat (run_zero s) hheader) hpass, step_inv hinv' hpass, rfl, rfl, rfl, rfl, rfl,
    rfl⟩

/-- The entries of delivered chunks are their bytes, each sent to EP_OUT and answered Ok. -/
theorem deliveredChunks_eq_map {c : Config} {sent : Memory Byte} {n : Nat} {l : List TxEntry}
    (h : deliveredChunks c sent n l) :
    l = (l.map TxEntry.bytes).map fun bytes => ⟨c.epOut, bytes, .ok⟩ := by
  obtain ⟨-, hentries⟩ := h
  apply List.ext_getElem?
  intro k
  rw [List.map_map, List.getElem?_map]
  cases hk : l[k]? with
  | none => rfl
  | some e =>
    obtain ⟨hep, -, hresult, -⟩ := hentries k e hk
    rw [Option.map_some, Function.comp_apply, ← hep, ← hresult]

theorem deliveredChunks_lengths {c : Config} {sent : Memory Byte} {n : Nat} {l : List TxEntry}
    (h : deliveredChunks c sent n l) : ChunkLengths c (l.map TxEntry.bytes) := by
  intro k bytes hk
  rw [List.getElem?_map, Option.map_eq_some_iff] at hk
  obtain ⟨e, hk, rfl⟩ := hk
  obtain ⟨-, hentries⟩ := h
  obtain ⟨-, hlen, -⟩ := hentries k e hk
  exact hlen

/-- A payload delivered whole holds every known byte at its index. -/
theorem deliveredChunks_known {c : Config} {sent : Memory Byte} {l : List TxEntry} (hl : c.legal = true)
    (h : deliveredChunks c sent c.nchunks l) {i : Nat} {b : Byte} (hi : i < c.fbLen)
    (hb : sent.read i = some b) : (l.map TxEntry.bytes).flatten[i]? = some b := by
  have hlengths := deliveredChunks_lengths h
  obtain ⟨hcount, hentries⟩ := h
  obtain ⟨k, j, hk, hj, rfl⟩ := exists_chunk_of_lt hl hi
  obtain ⟨e, he⟩ : ∃ e, l[k]? = some e := ⟨_, List.getElem?_eq_getElem (by omega)⟩
  obtain ⟨-, -, -, hknown⟩ := hentries k e he
  have hbytes : (l.map TxEntry.bytes)[k]? = some e.bytes := by rw [List.getElem?_map, he]; rfl
  rw [getElem?_flatten_chunks hl hlengths (by simp [hcount]) hbytes hj]
  exact hknown j b hj hb

theorem lt_of_read_within {α : Type} {m : Memory α} {n i : Nat} {v : α} (h : m.within n = true)
    (hv : m.read i = some v) : i < n := (m.within_iff n).1 h _ (Memory.mem_of_read hv)

end FrameRun

/-! ### The obligations -/

/-- Settles O25: the chunks' lengths add up to FB_LEN, and each byte of the payload is in its chunk. -/
theorem chunksCoverPayload : Obligations.ChunksCoverPayload := by
  refine ⟨fun s hl => ⟨Config.one_le_nchunks_of_legal hl, fun c hc => chunkLen_bounds hl hc,
    fun payload hlen hread => flatMap_chunkBytes hl hlen hread, fun hfits => ?oneChunk⟩,
    Config.push3_nchunks, fun c hc => chunkLen_push3 hc⟩
  case oneChunk =>
    have hone := nchunks_eq_one hl hfits
    refine ⟨hone, ?_⟩
    rw [chunkLen_last hl hone.symm, Nat.zero_mul, Nat.sub_zero]

/-- Settles O26: the header's answer and the pass, then one chunk for each answer. -/
theorem wholeFrameIsDelivered : Obligations.WholeFrameIsDelivered := by
  intro s rest hinv hp hi
  have hl := hinv.cfg_legal
  obtain ⟨u, hrun, huinv, hcfg, hfb, hinputs, hphase, hindex, hlog⟩ := run_to_sending hinv hp hi
  obtain ⟨t, ht⟩ := exists_chunksAnswered huinv hphase hindex (by rw [hcfg]) hinputs
  have htcfg : t.cfg = s.cfg := ht.cfg_eq.trans hcfg
  obtain ⟨hcomplete, herror⟩ := ht.ended (by rw [hcfg])
  obtain ⟨hcount, hbytes⟩ := ht.inv.complete_progress hcomplete
  obtain ⟨entries, htlog, hentries⟩ := ht.log
  rw [hcfg, hfb] at hentries
  have hlengths := deliveredChunks_lengths hentries
  have ⟨hnumber, _⟩ := hentries
  refine ⟨t, entries.map TxEntry.bytes, ?run, hcomplete, herror, ht.inputs_eq, htcfg ▸ hbytes,
    htcfg ▸ hcount, ?log, by rw [List.length_map, hnumber], hlengths, ?total, ?known⟩
  case run => rw [Nat.add_comm, run_add_of_run hrun, ht.run]
  case log =>
    rw [htlog, hlog, List.append_assoc, ← deliveredChunks_eq_map hentries]
    rfl
  case total =>
    have hcover := Config.fbLen_le_nchunks_mul (Config.one_le_chunkMax_of_legal hl)
    rw [length_flatten_chunks hl hlengths (by rw [List.length_map, hnumber]), List.length_map, hnumber,
      min_eq_right hcover]
  case known =>
    intro i b hb
    refine deliveredChunks_known hl hentries (lt_of_read_within hinv.fb_within hb) ?_
    rw [read_obfuscateFb, hb]
    rfl

/-- Settles O27: after `j` answered chunks the Err fails the write of chunk `j`, which is outstanding then. -/
theorem chunkFailureAbortsFrame : Obligations.ChunkFailureAbortsFrame := by
  intro s j rest hinv hp hj hi
  obtain ⟨u, hrun, huinv, hcfg, hfb, hinputs, hphase, hindex, hlog⟩ := run_to_sending hinv hp hi
  obtain ⟨t, ht⟩ := exists_chunksAnswered huinv hphase hindex (by rw [hcfg]; exact hj.le) hinputs
  have htcfg : t.cfg = s.cfg := ht.cfg_eq.trans hcfg
  have hsending := ht.running (by rwa [hcfg])
  obtain ⟨-, hbytes⟩ := ht.inv.sending_progress hsending
  obtain ⟨entries, htlog, hentries⟩ := ht.log
  rw [hcfg, hfb] at hentries
  have hstep := step_of_answer_sending ht.inv.cfg_legal hsending ht.inputs_eq
  have hlast := isChunkEntry_chunkBytes (setInputs rest t) j .err
  rw [setInputs_cfg, setInputs_fb, htcfg, ht.fb_eq, hfb] at hlast
  refine ⟨chunkStep .err (setInputs rest t), entries, _, ?run, rfl, rfl, ht.index_eq, ?sent, rfl, ?log, hentries,
    hlast⟩
  case run =>
    have hsteps : j + 3 = 2 + (j + 1) := by omega
    rw [hsteps, run_add_of_run hrun, run_concat ht.run hstep]
  case sent => exact hbytes.trans (by rw [ht.index_eq, htcfg])
  case log =>
    rw [chunkStep_txlog, setInputs_txlog, htlog, hlog, setInputs_chunkIndex, ht.index_eq, setInputs_cfg, htcfg,
      List.append_assoc, List.append_assoc]
    rfl

end Sys2Proof.Machine
end

section
/-! The registers (10_state.md section 2): what each reads, field by field, what the configuration registers hold, and which
offsets a write changes nothing at. -/

namespace Sys2Proof.Machine

/-! ### The registers (R18 to R32) -/

section Registers

/-- STATUS, field by field (R21). -/
theorem statusWord_fields (s : State) :
    (statusWord s).extractLsb' 0 3 = s.phase.bits ∧
    (statusWord s).extractLsb' 3 1 = BitVec.ofBool s.busy ∧
    (statusWord s).extractLsb' 4 1 = BitVec.ofBool s.fbValid ∧
    (statusWord s).extractLsb' 5 27 = 0#27 := by
  unfold statusWord
  refine ⟨?phase, ?busy, ?fbValid, ?reserved⟩
  case phase => rw [BitVec.extractLsb'_append_eq_right]
  case busy => rw [BitVec.extractLsb'_append_eq_of_le (by decide), BitVec.extractLsb'_append_eq_right]
  case fbValid =>
    rw [BitVec.extractLsb'_append_eq_of_le (by decide), BitVec.extractLsb'_append_eq_of_le (by decide),
      BitVec.extractLsb'_append_eq_right]
  case reserved =>
    rw [BitVec.extractLsb'_append_eq_of_le (by decide), BitVec.extractLsb'_append_eq_of_le (by decide),
      BitVec.extractLsb'_append_eq_of_le (by decide), BitVec.extractLsb'_eq_self]

/-- ERROR, field by field (R25). -/
theorem errorWord_fields (s : State) :
    (errorWord s).extractLsb' 0 4 = s.error.code.bits ∧
    (errorWord s).extractLsb' 4 4 = 0#4 ∧
    (errorWord s).extractLsb' 8 1 = BitVec.ofBool s.error.stage ∧
    (errorWord s).extractLsb' 9 23 = 0#23 := by
  unfold errorWord
  refine ⟨?code, ?low, ?stage, ?high⟩
  case code => rw [BitVec.extractLsb'_append_eq_right]
  case low => rw [BitVec.extractLsb'_append_eq_of_le (by decide), BitVec.extractLsb'_append_eq_right]
  case stage =>
    rw [BitVec.extractLsb'_append_eq_of_le (by decide), BitVec.extractLsb'_append_eq_of_le (by decide),
      BitVec.extractLsb'_append_eq_right]
  case high =>
    rw [BitVec.extractLsb'_append_eq_of_le (by decide), BitVec.extractLsb'_append_eq_of_le (by decide),
      BitVec.extractLsb'_append_eq_of_le (by decide), BitVec.extractLsb'_eq_self]

theorem ofBool_eq_one_iff (b : Bool) : BitVec.ofBool b = 1#1 ↔ b = true := by cases b <;> decide

theorem setWidth_eq_zero_append (p : BitVec 16) : p.setWidth 32 = 0#16 ++ p :=
  BitVec.setWidth_eq_append (by decide)

end Registers

/-! ### The configuration registers (R32) -/

section ConfigurationRegisters
variable {c : Config}

/-- The four bytes of a little-endian word, lowest first (R46). -/
def lanesOf (w : Word) : List Byte :=
  [w.extractLsb' 0 8, w.extractLsb' 8 8, w.extractLsb' 16 8, w.extractLsb' 24 8]

theorem lanesOf_wordOfBytes (b0 b1 b2 b3 : Byte) : lanesOf (wordOfBytes b0 b1 b2 b3) = [b0, b1, b2, b3] := by
  have hlane {k : Nat} (hk : k < 4) := extractLsb'_wordOfBytes (fun k => [b0, b1, b2, b3].getD k 0) hk
  have h0 := hlane (k := 0) (by decide)
  have h1 := hlane (k := 1) (by decide)
  have h2 := hlane (k := 2) (by decide)
  have h3 := hlane (k := 3) (by decide)
  exact congrArg₂ List.cons h0 (congrArg₂ List.cons h1 (congrArg₂ List.cons h2 (congrArg₂ List.cons h3 rfl)))

theorem lanesOf_keyWord (hl : c.legal = true) : c.key = lanesOf (keyWord c) := by
  obtain ⟨k0, k1, k2, k3, hkey⟩ := List.length_eq_four.1 (Config.lengths_of_legal hl).2
  rw [keyWord, lanesOf_wordOfBytes, hkey]
  rfl

/-- The four header registers hold the header's sixteen bytes, in order. -/
theorem lanesOf_headerWords (hl : c.legal = true) :
    c.header = [headerWord c 0, headerWord c 1, headerWord c 2, headerWord c 3].flatMap lanesOf := by
  have hbytes : c.header = (List.range 16).map fun i => c.header.getD i 0 :=
    List.ext_getElem (by simp [(Config.lengths_of_legal hl).1]) fun i hi _ => by simp [hi]
  simp only [List.flatMap_cons, List.flatMap_nil, headerWord, lanesOf_wordOfBytes]
  exact hbytes

theorem pitch_le_of_legal (hl : c.legal = true) : c.pitch ≤ 0x100000 := by
  obtain ⟨-, hheight, -⟩ := Config.legal_iff.1 hl
  calc c.pitch = 1 * c.pitch := (Nat.one_mul _).symm
    _ ≤ c.height * c.pitch := Nat.mul_le_mul_right _ hheight
    _ ≤ 0x100000 := Config.fbLen_le_of_legal hl

theorem toNat_ofNat_of_lt {n : Nat} (h : n < 2 ^ 32) : (BitVec.ofNat 32 n).toNat = n := Nat.mod_eq_of_lt h

theorem toNat_chunkMaxWord (h : c.chunkMax < 2 ^ 32) : (chunkMaxWord c).toNat = c.chunkMax := by
  rw [chunkMaxWord, if_pos h, toNat_ofNat_of_lt h]

end ConfigurationRegisters

/-! ### The geometry registers (R28, R29) -/

/-- The offset 0x014 is SRC_WIDTH's (R28). -/
theorem hostWrite_srcWidth (v : Word) (s : State) :
    hostWrite .word 0x014#32 v s = .next { s with srcWidth := v.extractLsb' 0 16 } := rfl

/-- The offset 0x018 is SRC_HEIGHT's (R29). -/
theorem hostWrite_srcHeight (v : Word) (s : State) :
    hostWrite .word 0x018#32 v s = .next { s with srcHeight := v.extractLsb' 0 16 } := rfl

/-! ### The obligations -/

/-- Settles O28: each register's word, field by field, and the register offsets that a write leaves alone. -/
theorem registersReadTheirFields : Obligations.RegistersReadTheirFields := by
  intro s
  obtain ⟨hphase, hbusy, hvalid, hreserved⟩ := statusWord_fields s
  obtain ⟨hcode, hlow, hstage, hhigh⟩ := errorWord_fields s
  refine ⟨rfl, rfl, ⟨_, hostRead_status s, ?phase, ?busy, ?fbValid, hreserved⟩,
    ⟨_, hostRead_error s, ?code, hlow, ?stage, hhigh⟩, ?result, ?width, ?height, rfl, rfl, ?readOnly⟩
  case phase => rw [hphase]; cases s.phase <;> rfl
  case busy => rw [hbusy, ofBool_eq_one_iff, busy_iff]
  case fbValid => rw [hvalid, ofBool_eq_one_iff]
  case code => rw [hcode]; cases s.error.code <;> rfl
  case stage => rw [hstage, ofBool_eq_one_iff]
  case result => rw [hostRead_result, setWidth_eq_zero_append]
  case width => rw [← setWidth_eq_zero_append]; rfl
  case height => rw [← setWidth_eq_zero_append]; rfl
  case readOnly =>
    have hkept : ∀ addr ∈ ([0x000#32, 0x008#32, 0x00C#32, 0x010#32, 0x01C#32, 0x020#32] : List Word), ∀ v,
        hostWrite .word addr v s = .next s := by
      simp only [List.forall_mem_cons]
      exact ⟨fun _ => rfl, fun _ => rfl, fun _ => rfl, fun _ => rfl, fun _ => rfl, fun _ => rfl, by simp⟩
    exact fun addr haddr v => ⟨hkept addr haddr v, writeTransaction_of_next (hkept addr haddr v)⟩

/-- Settles O29: each parameter fits its register, and the two byte lists are the lanes of theirs. -/
theorem configurationRegistersRead : Obligations.ConfigurationRegistersRead := by
  intro s hl hchunkMax
  obtain ⟨-, -, -, hwidth, hheight, -, hfbLen, -⟩ := Config.legal_iff.1 hl
  have hpitch := pitch_le_of_legal hl
  have hpad : s.cfg.pad ≤ s.cfg.pitch := Nat.le_add_left _ _
  have hnchunks := Config.nchunks_le_of_legal hl
  have hep : (s.cfg.epOut.setWidth 32).toNat = s.cfg.epOut.toNat := BitVec.toNat_setWidth_of_le (by decide)
  refine ⟨?numbers, ⟨_, rfl, lanesOf_keyWord hl⟩,
    ⟨_, _, _, _, rfl, rfl, rfl, rfl, lanesOf_headerWords hl⟩, ?readOnly⟩
  case numbers =>
    simp only [List.forall_mem_cons]
    exact ⟨⟨⟨_, rfl, toNat_ofNat_of_lt (by omega)⟩, fun _ => rfl⟩,
      ⟨⟨_, rfl, toNat_ofNat_of_lt (by omega)⟩, fun _ => rfl⟩,
      ⟨⟨_, rfl, toNat_ofNat_of_lt (by omega)⟩, fun _ => rfl⟩,
      ⟨⟨_, rfl, toNat_ofNat_of_lt (by omega)⟩, fun _ => rfl⟩,
      ⟨⟨_, rfl, toNat_ofNat_of_lt (by omega)⟩, fun _ => rfl⟩,
      ⟨⟨_, rfl, toNat_chunkMaxWord hchunkMax⟩, fun _ => rfl⟩,
      ⟨⟨_, rfl, toNat_ofNat_of_lt (by omega)⟩, fun _ => rfl⟩,
      ⟨⟨_, rfl, hep⟩, fun _ => rfl⟩, by simp⟩
  case readOnly =>
    simp only [List.forall_mem_cons]
    exact ⟨fun _ => rfl, fun _ => rfl, fun _ => rfl, fun _ => rfl, fun _ => rfl, by simp⟩

/-- Settles O30: the registers of one configuration, by evaluation. -/
theorem pushConfigurationRegisterValues : Obligations.PushConfigurationRegisterValues := by
  intro s hcfg
  have hword {addr w w' : Word} (hread : hostRead .word addr s = .ok ⟨w', 0⟩) (hw : w' = w) :
      hostRead .word addr s = .ok ⟨w, 0⟩ := hw ▸ hread
  simp only [List.forall_mem_cons]
  refine ⟨hword rfl ?_, hword rfl ?_, hword rfl ?_, hword rfl ?_, hword rfl ?_, hword rfl ?_, hword rfl ?_,
    hword rfl ?_, hword rfl ?_, hword rfl ?_, hword rfl ?_, hword rfl ?_, by simp⟩
  all_goals
    simp only [readReg, hcfg]
    decide

/-- Settles O37: the two writes, and the reads zero-extended. -/
theorem geometryRegistersHold16Bits : Obligations.GeometryRegistersHold16Bits := by
  intro s v
  refine ⟨hostWrite_srcWidth v s, hostWrite_srcHeight v s, ?_, ?_⟩
  all_goals
    rw [← setWidth_eq_zero_append]
    rfl

end Sys2Proof.Machine
end

section
/-! The host port (20_memory.md): the offsets that no window maps (R50), the reads of FB (R52, R55), how a transaction
completes (R45), and what repeating one does (R58). -/

namespace Sys2Proof.Machine

/-! ### Unmapped offsets (R50) -/

/-- An offset that is no register's, in no SRC entry and in no FB byte, names nothing. -/
theorem mapOffset_none {c : Config} {a : Nat} (hreg : a ∉ registerMap.map Prod.fst)
    (hsrc : ¬ (srcBase ≤ a ∧ a < srcBase + 4 * c.pixels)) (hfb : ¬ (fbBase ≤ a ∧ a < fbBase + c.fbLen)) :
    mapOffset c a = none := by
  have hread : registerMap.read a = none :=
    Memory.read_eq_none fun p hp he => hreg (List.mem_map.2 ⟨p, hp, he⟩)
  rw [mapOffset, hread, if_neg hsrc, if_neg hfb, Option.map_none, ite_self]

theorem accessTarget_unmapped {c : Config} {addr : Word} (halign : addr.toNat % 4 = 0)
    (h : mapOffset c addr.toNat = none) : accessTarget c .word addr = .error .unmapped := by
  simp [accessTarget, halign, h]

/-! ### Reads (R52, R55) -/

section Reads
variable {s : State}

/-- While BUSY = 1 no target's read looks at FB. -/
theorem readTarget_of_busy (fb' : Memory Byte) (h : s.busy = true) (t : Target) :
    readTarget { s with fb := fb' } t = readTarget s t := by
  cases t with
  | reg r => cases r <;> rfl
  | src j => rfl
  | fb i =>
    have h' : ({ s with fb := fb' } : State).busy = true := h
    rw [readTarget, readTarget, readFb, readFb, if_pos h, if_pos h']

/-- A read's one response, and the draws that it takes. -/
theorem readTransaction_response (width : AccessWidth) (addr : Word) (s : State) :
    ∃ r drawn, readTransaction width addr s = { s with hostLog := s.hostLog ++ [r], draws := drawn } ∧
      (r = .busError → drawn = s.draws) := by
  rcases readTransaction_eq width addr s with ⟨d, -, h⟩ | ⟨-, h⟩
  · exact ⟨_, _, h, fun hr => by cases hr⟩
  · exact ⟨_, _, h, fun _ => rfl⟩

end Reads

/-! ### Writes (R45, R53) -/

section Writes
variable {s t : State} {width : AccessWidth} {addr v : Word}

/-- A command touches neither the schedule nor the responses. -/
theorem issueCommand_lists {w : Word} (h : issueCommand w s = .next t) :
    t.inputs = s.inputs ∧ t.hostLog = s.hostLog := by
  rcases issueCommand_cases h with ⟨code, rfl⟩ | ⟨-, r, g, b, -, rfl⟩ | ⟨-, -, -, rfl⟩ |
    ⟨-, -, -, rfl⟩ | ⟨-, -, rfl⟩ | ⟨-, -, -, rfl⟩
  all_goals exact ⟨rfl, rfl⟩

theorem hostWrite_lists (h : hostWrite width addr v s = .next t) :
    t.inputs = s.inputs ∧ t.hostLog = s.hostLog := by
  obtain ⟨-, ⟨-, hcmd⟩ | ⟨-, rfl⟩ | ⟨-, rfl⟩ | ⟨j, -, -, rfl⟩ | ⟨-, rfl⟩⟩ := hostWrite_cases h
  · exact issueCommand_lists hcmd
  all_goals exact ⟨rfl, rfl⟩

/-- A write's one response. -/
theorem writeTransaction_response (width : AccessWidth) (addr v : Word) (s : State) :
    ∃ t r, writeTransaction width addr v s = .next t ∧ t.hostLog = s.hostLog ++ [r] ∧ t.inputs = s.inputs ∧
      (r = .busError → t = respond .busError s) := by
  rcases writeTransaction_cases width addr v s with ⟨t, hwrite, h⟩ | ⟨-, h⟩
  · obtain ⟨hinputs, hlog⟩ := hostWrite_lists hwrite
    exact ⟨_, .done, h, by rw [respond_hostLog, hlog], hinputs, fun hr => by cases hr⟩
  · exact ⟨_, .busError, h, rfl, rfl, fun _ => rfl⟩

/-- Every offset of a SRC entry is admitted for writing. -/
theorem hostWrite_src (hl : s.cfg.legal = true) (halign : addr.toNat % 4 = 0) (hlow : srcBase ≤ addr.toNat)
    (hhigh : addr.toNat < srcBase + 4 * s.cfg.pixels) :
    ∃ j, hostWrite .word addr v s = .next (writeSrc j v s) := by
  have hbase : srcBase % 4 = 0 := rfl
  have haddr : addr = BitVec.ofNat 32 (srcBase + 4 * ((addr.toNat - srcBase) / 4)) := by
    apply BitVec.eq_of_toNat_eq
    rw [toNat_ofNat_of_lt (by omega)]
    omega
  have htarget := accessTarget_src (c := s.cfg) hl (j := (addr.toNat - srcBase) / 4) (by omega)
  rw [← haddr] at htarget
  exact ⟨_, hostWrite_of_src htarget⟩

/-- Writing an index twice with one value is writing it once. -/
theorem Memory.write_write {α : Type} (m : Memory α) (a : Nat) (v : α) :
    (m.write a v).write a v = m.write a v := by
  induction m with
  | nil => simp [Memory.write]
  | cons p m ih =>
    obtain ⟨k, w⟩ := p
    by_cases hlt : a < k
    · simp [Memory.write, hlt]
    · by_cases heq : a = k
      · simp [Memory.write, heq]
      · simp [Memory.write, hlt, heq, ih]

theorem writeSrc_writeSrc (j : Nat) (v : Word) (s : State) : writeSrc j v (writeSrc j v s) = writeSrc j v s := by
  have hsrc := Memory.write_write s.src j (v.extractLsb' 0 24)
  simp only [writeSrc, hsrc]

/-- Outside CMD a write that is repeated finds its value stored already. -/
theorem hostWrite_repeat {u : State} (hcmd : addr ≠ 0x004#32) (ht : hostWrite width addr v s = .next t)
    (hu : hostWrite width addr v t = .next u) : u = t := by
  obtain ⟨rfl, ⟨rfl, -⟩ | ⟨rfl, rfl⟩ | ⟨rfl, rfl⟩ | ⟨j, hj, haddr, rfl⟩ | ⟨-, rfl⟩⟩ := hostWrite_cases ht
  · exact absurd rfl hcmd
  · cases hu.symm.trans (hostWrite_srcWidth v _)
    rfl
  · cases hu.symm.trans (hostWrite_srcHeight v _)
    rfl
  · unfold srcBase at haddr
    obtain ⟨-, ⟨rfl, -⟩ | ⟨rfl, -⟩ | ⟨rfl, -⟩ | ⟨k, -, haddr', rfl⟩ | ⟨hlow, -⟩⟩ := hostWrite_cases hu
    case inr.inr.inr.inl =>
      unfold srcBase at haddr'
      obtain rfl : k = j := by omega
      exact writeSrc_writeSrc k v s
    case inr.inr.inr.inr => omega
    all_goals
      rw [BitVec.toNat_ofNat] at haddr
      omega
  · exact Host.Outcome.next.inj (hu.symm.trans ht)

end Writes

/-! ### Repeated commands (R58) -/

section RepeatedCommands
variable {s t u : State}

theorem exec_pack_repeat {r g b : Byte} (ht : exec (.pack r g b) s = .next t)
    (hu : exec (.pack r g b) t = .next u) : u = t := by
  rcases execPack_cases ht with ⟨hbusy, rfl⟩ | ⟨hbusy, rfl⟩
  · cases hu.symm.trans (exec_pack_of_busy r g b (s := raiseError .busy s) hbusy)
    rfl
  · cases hu.symm.trans (exec_pack_of_not_busy r g b
      (s := reportNone { s with result := encode565 r g b }) hbusy)
    rfl

theorem exec_build_repeat (ht : exec .build s = .next t) (hu : exec .build t = .next u) : u = t := by
  rcases execBuild_cases ht with ⟨hbusy, rfl⟩ | ⟨hbusy, hgeom, rfl⟩ | ⟨hbusy, hgeom, rfl⟩
  · cases hu.symm.trans (exec_build_of_busy (s := raiseError .busy s) hbusy)
    rfl
  · cases hu.symm.trans (exec_build_of_match
      (s := reportNone { s with fb := buildFramebuffer s.cfg s.src, fbValid := true }) hbusy hgeom)
    rfl
  · cases hu.symm.trans (exec_build_of_mismatch
      (s := raiseError .invalidSourceGeometry { s with fbValid := false }) hbusy hgeom)
    rfl

end RepeatedCommands

/-! ### The obligations -/

/-- Settles O32: such an offset names nothing, whichever way it is accessed. -/
theorem unmappedOffsetsGiveBusError : Obligations.UnmappedOffsetsGiveBusError := by
  intro s addr v halign hreg hsrc hfb
  have htarget := accessTarget_unmapped halign (mapOffset_none (c := s.cfg) hreg hsrc hfb)
  exact ⟨readTransaction_of_error (hostRead_of_error htarget),
    writeTransaction_of_fault (hostWrite_of_error htarget)⟩

/-- Settles O35: the word's lanes are those of `fbLane`. -/
theorem framebufferWordIsLittleEndian : Obligations.FramebufferWordIsLittleEndian := by
  intro s i hl hbusy halign hi
  have hlen := Config.fbLen_le_of_legal hl
  have htarget := accessTarget_fb (addr := BitVec.ofNat 32 (0x00200000 + i)) hl hi halign
    (toNat_ofNat_of_lt (by omega))
  refine ⟨_, hostRead_of_target htarget, fun k hk => ⟨fun b hlt hb => ?known, fun hpast => ?past⟩⟩
  case known => exact (readFb_lane i hbusy hk).trans (fbLane_known hlt hb)
  case past => exact (readFb_lane i hbusy hk).trans (fbLane_past hpast)

/-- Settles O36: which target an access names does not depend on FB, nor does its read while BUSY = 1. -/
theorem busyReadsRevealNothingOfFramebuffer : Obligations.BusyReadsRevealNothingOfFramebuffer := by
  intro s fb' width addr hbusy
  unfold hostRead
  cases accessTarget s.cfg width addr with
  | error f => rfl
  | ok t => exact congrArg Except.ok (readTarget_of_busy fb' hbusy t)

/-- Settles O38: a read has one response, and draws are all else it takes. -/
theorem hostReadsHaveNoSideEffect : Obligations.HostReadsHaveNoSideEffect := by
  intro s width addr rest hl hi
  obtain ⟨r, drawn, hread, -⟩ := readTransaction_response width addr (setInputs rest s)
  refine ⟨_, r, (step_of_input hl hi).trans (congrArg Host.Outcome.next hread), rfl⟩

/-- Settles O39: the one response of a read and of a write, and the two statements that look at what they read. -/
theorem hostTransactionsComplete : Obligations.HostTransactionsComplete := by
  refine ⟨fun s e rest hl hi haccess => ?transaction, fun s gaps rest hl hi => ?loop,
    fun s code rest hl hi => ⟨_, hostRead_error s, ?comparison⟩⟩
  case transaction =>
    rw [step_of_input hl hi]
    rcases haccess with ⟨width, addr, rfl⟩ | ⟨width, addr, v, rfl⟩
    · obtain ⟨r, drawn, hread, hbusError⟩ := readTransaction_response width addr (setInputs rest s)
      rw [handleInput, hread]
      refine ⟨_, r, rfl, rfl, rfl, fun hr => ?_⟩
      rw [hbusError hr, hr]
      rfl
    · exact writeTransaction_response width addr v (setInputs rest s)
  case loop =>
    have hstep : step s = .next (pollIdle gaps (setInputs rest s)) := step_of_input hl hi
    rw [pollIdle_eq, setInputs_busy] at hstep
    have hclear := statusWord_busy s
    cases hbusy : s.busy with
    | false =>
      rw [hbusy, if_neg Bool.false_ne_true] at hstep
      refine ⟨_, _, hostRead_status s, hstep, rfl, fun _ => rfl, fun hset => ?_⟩
      cases (hclear.2 hbusy).symm.trans hset
    | true =>
      rw [hbusy, if_pos rfl] at hstep
      obtain ⟨before, later, hsplit, hresume, hothers, hle, hend⟩ :=
        resumeAfter_split (.waitIdle gaps.tail) (gaps.headD 1) rest
      exact ⟨_, _, hostRead_status s, hstep, rfl, fun hzero => Bool.noConfusion (hbusy.symm.trans (hclear.1 hzero)),
        fun _ => ⟨before, later, hsplit, hresume, hothers, hle, hend⟩⟩
  case comparison =>
    rw [step_of_input hl hi, handleInput, checkError_eq]
    rfl

/-- Settles O56: the three writes are admitted, and each changes what its offset names. -/
theorem sourceLoadingNeverDisturbsFrame : Obligations.SourceLoadingNeverDisturbsFrame := by
  intro s addr v rest hl haddr hi
  have hstep {t : State} (h : hostWrite .word addr v (setInputs rest s) = .next t) :
      step s = .next (respond .done t) := (step_of_input hl hi).trans (writeTransaction_of_next h)
  rcases haddr with rfl | rfl | ⟨halign, hlow, hhigh⟩
  · exact ⟨_, hstep (hostWrite_srcWidth v _), rfl⟩
  · exact ⟨_, hstep (hostWrite_srcHeight v _), rfl⟩
  · obtain ⟨j, hwrite⟩ := hostWrite_src (s := setInputs rest s) (v := v) hl halign hlow hhigh
    exact ⟨_, hstep hwrite, rfl⟩

/-- Settles O58: a repeated write finds its value stored, PACK and BUILD read nothing that they write, and SEND is BUSY. -/
theorem repeatedWrites : Obligations.RepeatedWrites := by
  refine ⟨fun s t u addr v haddr ht hu => hostWrite_repeat ?notCmd ht hu,
    fun s t u r g b => exec_pack_repeat, fun s t u => exec_build_repeat, fun s t hbusy hvalid hsend => ?send⟩
  case notCmd =>
    rintro rfl
    rcases haddr with haddr | haddr | haddr <;> simp at haddr
  case send =>
    cases (exec_send_of_valid hbusy hvalid).symm.trans hsend
    exact exec_send_of_busy rfl

end Sys2Proof.Machine
end

section
/-! The reset input (70_reset_and_hazards.md section 1): the write that it abandons, and the block that it leaves. -/

namespace Sys2Proof.Machine

/-! ### The reset and the outstanding write (R139 to R141) -/

section AbandonedWrite
variable {s : State}

/-- A reset that abandons a write logs its first bytes. -/
theorem applyReset_txlog_of_write {bytes : List Byte} (h : outstandingWrite s = some bytes) :
    ∃ n ≤ bytes.length, (applyReset s).txlog = s.txlog ++ [⟨s.cfg.epOut, bytes.take n, .abandoned⟩] := by
  refine ⟨Config.drawLength s.draws % (bytes.length + 1), Nat.le_of_lt_succ (Nat.mod_lt _ (Nat.succ_pos _)), ?_⟩
  change (abandonWrite s).txlog = _
  rw [abandonWrite, h]
  rfl

theorem outstandingWrite_header (hp : s.phase = .header) : outstandingWrite s = some s.cfg.header := by
  rw [outstandingWrite, hp]

theorem outstandingWrite_sending (hp : s.phase = .sending) :
    outstandingWrite s = some (chunkBytes s s.chunkIndex.toNat) := by
  rw [outstandingWrite, hp]

theorem outstandingWrite_none (hheader : s.phase ≠ .header) (hsending : s.phase ≠ .sending) :
    outstandingWrite s = none := by
  unfold outstandingWrite
  cases hp : s.phase <;> simp_all

end AbandonedWrite

/-! ### The obligations -/

/-- Settles O41: the reset state, field by field. -/
theorem resetStateValues : Obligations.ResetStateValues :=
  ⟨rfl, rfl, rfl, rfl, rfl, rfl, rfl, rfl, fun _ => rfl, fun _ => rfl, rfl⟩

/-- Settles O42: the write outstanding in each phase, and what the reset logs of it. -/
theorem resetAbandonsOutstandingWrite : Obligations.ResetAbandonsOutstandingWrite := by
  intro s rest hl hi
  have hidle : (applyReset (dropInput s)).busy = false := applyReset_busy _
  refine ⟨_, step_of_reset hl hi, fun hp => ?header, fun hp => ?sending, fun hheader hsending => ?other, rfl,
    outstandingWrite_of_not_busy hidle, fun a => transportAnswer_of_not_busy a hidle⟩
  case header => exact applyReset_txlog_of_write (outstandingWrite_header (s := dropInput s) hp)
  case sending =>
    have hlog := applyReset_txlog_of_write (outstandingWrite_sending (s := dropInput s) hp)
    rwa [length_chunkBytes] at hlog
  case other => exact applyReset_txlog_of_none (outstandingWrite_none (s := dropInput s) hheader hsending)

/-- Settles O43: in IDLE no event has an Engine step, and the words of the reset values read 0. -/
theorem blockIsQuietAfterReset : Obligations.BlockIsQuietAfterReset := fun s =>
  ⟨enginePass_of_ne (phase_ne_of_not_busy (applyReset_busy s) rfl),
    fun a => transportAnswer_of_not_busy a (applyReset_busy s),
    by rw [hostRead_status, statusWord, applyReset_fbValid, applyReset_busy, applyReset_phase]; rfl,
    by rw [hostRead_error, errorWord, applyReset_error]; rfl, rfl⟩

end Sys2Proof.Machine
end

section
/-! The framebuffer of a known image, whole (R92), and the obfuscator over an aligned group of four bytes (R96). -/

namespace Sys2Proof.Machine

/-! ### The indices that BUILD lists (R86, R92) -/

section Indices

/-- Blocks that list one stretch of `P` indices after the other list all of them in order. -/
theorem map_fst_flatMap_blocks {α : Type} {f : Nat → Memory α} {base P n : Nat}
    (h : ∀ y < n, (f y).map Prod.fst = List.range' (base + y * P) P) :
    ((List.range n).flatMap f).map Prod.fst = List.range' base (n * P) := by
  induction n with
  | zero => simp
  | succ n ih =>
    rw [List.range_succ, List.flatMap_append, List.map_append, ih fun y hy => h y (by omega),
      List.flatMap_singleton, h n (by omega), List.range'_append_1, Nat.succ_mul]

variable {c : Config} {src : Memory Rgb} {y : Nat}

theorem map_fst_pixelCells {x : Nat} (h : (src.read (pixelIndex c x y)).isSome) :
    (pixelCells c src y x).map Prod.fst = List.range' (y * c.pitch + x * 2) 2 := by
  obtain ⟨p, hp⟩ := Option.isSome_iff_exists.1 h
  rw [pixelCells, hp, Nat.mul_comm x 2]
  rfl

theorem map_fst_paddingCells (c : Config) (y : Nat) :
    (paddingCells c y).map Prod.fst = List.range' (y * c.pitch + c.width * 2) c.pad := by
  rw [paddingCells, List.map_map, List.range'_eq_map_range, Nat.mul_comm c.width 2]
  rfl

theorem map_fst_scanlineCells (h : ∀ x < c.width, (src.read (pixelIndex c x y)).isSome) :
    (scanlineCells c src y).map Prod.fst = List.range' (y * c.pitch) c.pitch := by
  have hpixels := map_fst_flatMap_blocks (f := pixelCells c src y) (base := y * c.pitch) (P := 2)
    fun x hx => map_fst_pixelCells (h x hx)
  rw [scanlineCells, List.map_append, hpixels, map_fst_paddingCells, List.range'_append_1, Nat.mul_comm c.width 2]
  rfl

/-- A known image leaves no byte of FB out. -/
theorem map_fst_buildFramebuffer (h : ∀ j < c.width * c.height, (src.read j).isSome) :
    (buildFramebuffer c src).map Prod.fst = List.range c.fbLen := by
  have hlines : ∀ y < c.height, (scanlineCells c src y).map Prod.fst = List.range' (0 + y * c.pitch) c.pitch := by
    intro y hy
    rw [Nat.zero_add]
    refine map_fst_scanlineCells fun x hx => h _ ?_
    calc y * c.width + x < y * c.width + c.width := by omega
      _ = (y + 1) * c.width := (Nat.succ_mul _ _).symm
      _ ≤ c.height * c.width := Nat.mul_le_mul_right _ hy
      _ = c.width * c.height := Nat.mul_comm _ _
  rw [buildFramebuffer, map_fst_flatMap_blocks hlines, List.range_eq_range']
  rfl

end Indices

/-! ### The key over an aligned group (R96) -/

section KeyWord
variable (key : List Byte)

theorem keyByte_congr {i i' : Nat} (h : i % 4 = i' % 4) : keyByte key i = keyByte key i' := by
  rw [keyByte, keyByte, h]

/-- The key starts again at every index that is a multiple of 4. -/
theorem obfuscate_append_aligned {before group : List Byte} {n : Nat} (h : before.length = 4 * n) :
    obfuscate (before ++ group) key = obfuscate before key ++ obfuscate group key := by
  have hkey (i : Nat) : keyByte key (i + before.length) = keyByte key i := keyByte_congr key (by omega)
  simp only [obfuscate, List.mapIdx_append, hkey]

/-- Four bytes from an aligned index on. -/
theorem obfuscate_group (b0 b1 b2 b3 : Byte) (after : List Byte) :
    (obfuscate (b0 :: b1 :: b2 :: b3 :: after) key).take 4 =
      [b0 ^^^ key.getD 0 0, b1 ^^^ key.getD 1 0, b2 ^^^ key.getD 2 0, b3 ^^^ key.getD 3 0] := by
  simp only [obfuscate, List.mapIdx_cons]
  rfl

/-- XOR of two words made of bytes is XOR byte by byte. -/
theorem append_xor_append (a0 a1 a2 a3 b0 b1 b2 b3 : Byte) :
    (a3 ^^^ b3) ++ (a2 ^^^ b2) ++ (a1 ^^^ b1) ++ (a0 ^^^ b0)
      = (a3 ++ a2 ++ a1 ++ a0) ^^^ (b3 ++ b2 ++ b1 ++ b0) := by
  simp only [BitVec.xor_append]

end KeyWord

/-! ### The obligations -/

/-- Settles O11: BUILD writes `buildFramebuffer`, whose scanlines leave no index out. -/
theorem buildDefinesWholeFramebuffer : Obligations.BuildDefinesWholeFramebuffer := by
  intro s t hbusy hwidth hheight hknown hbuild
  have hgeom : geometryMatches s = true := (geometryMatches_iff s).2 ⟨hwidth, hheight⟩
  cases (exec_build_of_match hbusy hgeom).symm.trans hbuild
  exact map_fst_buildFramebuffer hknown

/-- Settles O14: the key byte of an index, and the group as a word of four key bytes. -/
theorem obfuscateWordIsKeyWordXor : Obligations.ObfuscateWordIsKeyWordXor := by
  refine ⟨fun buf buf' key i i' hbuf hi => ?locality, fun s n b0 b1 b2 b3 before after hlen => ?word⟩
  case locality => rw [getElem?_obfuscate, getElem?_obfuscate, hbuf, keyByte_congr key hi]
  case word =>
    have hdrop : (obfuscate before s.cfg.key).length = 4 * n := (length_obfuscate before s.cfg.key).trans hlen
    refine ⟨_, _, _, _, ?bytes, append_xor_append b0 b1 b2 b3 _ _ _ _⟩
    rw [obfuscate_append_aligned s.cfg.key hlen, List.drop_left' hdrop]
    exact obfuscate_group s.cfg.key b0 b1 b2 b3 after

end Sys2Proof.Machine
end
